-- ==== Sys2Proof/Word.lean ====
section
/-! DEFINITION. The word types of the block: bytes, 16- and 32-bit registers, 48-bit SD command frames (R9, R300, R310).
Bit 0 is the least significant bit of every value. -/

namespace Sys2Proof

/-- One byte: an SPI or I2C byte, a sample, `DATA8`. -/
abbrev Byte := BitVec 8

/-- A 16-bit register value (`DIVREQ`, `DIV`, the two fields of `XFER`). -/
abbrev Short := BitVec 16

/-- A 32-bit register or command word. -/
abbrev Word := BitVec 32

/-- The 48 bits of one SD command frame; byte 0, the first sent, is bits 47:40 (R303, R310). -/
abbrev FrameWord := BitVec 48

end Sys2Proof
end

