-- ==== Sys2Proof/Syntax.lean ====
section
/-! DEFINITION. The operations of the block: one constructor per row of spec/opcode_table.json (R301, R303, R311).
A field is an operand that stands in the encoding; operands that a command takes from the argument registers
(`BLOCK`, `XFER`, `DIVREQ`) are in its snapshot (R304, R401), not here. -/

namespace Sys2Proof

inductive Instr where
  -- the sixteen host commands (R301)
  | nop
  | spiXfer (data8 : Byte)
  | spiSend (data8 : Byte)
  | spiRecv
  | spiSetDiv
  | spiSelect
  | spiDeselect
  | sdInit
  | sdRead
  | i2cStart
  | i2cWrite (data8 : Byte)
  | i2cStop
  | dacWrite (data8 : Byte)
  | pbStart
  | pbStop
  | clrFlags
  -- the two internal operations, which have no encoding (R303)
  | tick
  | refill
  -- the six SD commands at wire level (R311)
  | goIdleState
  | sendIfCond
  | appCmd
  | sendOpCond
  | readOcr
  | readSingleBlock (addr : Word)
  deriving DecidableEq, Repr

end Sys2Proof
end

