-- ==== Sys2Proof/Config.lean ====
section
/-! DEFINITION. What is not state of the block (R101): the parameters of an instance (R8), the answers of the two
external devices (R20), the schedule, and the free values that stand for all of them at reset.
None of the `opaque` constants has a body, so no proof can see what it is. -/

namespace Sys2Proof

/-- The parameters of an instance (R8). Each is an argument of the machine; the constraints of R8 are `Params.wf`
(WellFormed.lean). `WAKE_BYTES` is fixed at 10 and is no parameter. -/
structure Params where
  r1PollLimit : Nat
  opcondRetryLimit : Nat
  tokenPollLimit : Nat
  /-- The set `SUPPORTED_DIVISORS`, in any order. -/
  supportedDivisors : List Short
  slowDivisor : Short
  fastDivisor : Short
  dacAddr : BitVec 7
  dacCmd : Byte
  dacLow : Byte
  silenceSample : Byte
  startBlock : Word
  /-- 1 to 2^32, so it does not fit a word. -/
  totalBlocks : Nat
  /-- No rule's result depends on it (R22, R635). -/
  samplePeriod : Nat
  /-- The platform address of offset 0 (R204); every rule speaks of offsets from it. -/
  blockBase : Nat
  deriving DecidableEq, Repr

/-- The I2C oracle's answer for one primitive (R20, R500): it completes, with the ACK bit the device drives, or it never
completes. -/
inductive I2cAnswer where
  | completes (ack : Bool)
  | never
  deriving DecidableEq, Repr, Inhabited

/-- One access of the host to the register space, by offset from `BLOCK_BASE` and size in bytes (R205 to R207). -/
inductive HostAccess where
  | read (off size : Nat)
  | write (off size : Nat) (v : Word)
  deriving DecidableEq, Repr, Inhabited

/-- Which agent takes the next step (R20); the host's step is one register access. -/
inductive Turn where
  | host (a : HostAccess)
  | cmd
  | prod
  | cons
  | tickSrc
  deriving DecidableEq, Repr, Inhabited

/-! Raw free values behind the parameters of R8; `Config.params` brings each into its range. -/

opaque Config.rawR1PollLimit : Nat
opaque Config.rawOpcondRetryLimit : Nat
opaque Config.rawTokenPollLimit : Nat
opaque Config.rawFirstDivisor : Short
opaque Config.rawOtherDivisors : List Short
opaque Config.rawSlowDivisor : Short
opaque Config.rawFastDivisor : Short
opaque Config.rawDacAddr : BitVec 7
opaque Config.rawDacCmd : Byte
opaque Config.rawDacLow : Byte
opaque Config.rawSilenceSample : Byte
opaque Config.rawStartBlock : Word
opaque Config.rawTotalBlocks : Word
opaque Config.rawSamplePeriod : Nat
opaque Config.rawBlockBase : Nat

/-- A divisor is in 1..65535 (R8). -/
def Config.asDivisor (d : Short) : Short := if d = 0 then 1 else d

/-- The parameters the machine has at reset: every admissible instance of R8 is one value of the raw constants. -/
def Config.params : Params where
  r1PollLimit := rawR1PollLimit + 1
  opcondRetryLimit := rawOpcondRetryLimit + 1
  tokenPollLimit := rawTokenPollLimit + 1
  supportedDivisors := asDivisor rawFirstDivisor :: rawOtherDivisors.map asDivisor
  slowDivisor := asDivisor rawSlowDivisor
  fastDivisor := asDivisor rawFastDivisor
  dacAddr := rawDacAddr
  dacCmd := rawDacCmd
  dacLow := rawDacLow
  silenceSample := rawSilenceSample
  startBlock := rawStartBlock
  totalBlocks := rawTotalBlocks.toNat + 1
  samplePeriod := rawSamplePeriod + 1
  blockBase := rawBlockBase

/-- The byte the card returns in transfer number `n`: any byte (R20, U1). -/
opaque Config.cardByte : Nat → Byte

/-- The I2C oracle's answer for primitive number `n` (R20, U2). -/
opaque Config.i2cAnswer : Nat → I2cAnswer

/-- The agent that takes step number `n` (R21, R621): any agent, and for the host any access. -/
opaque Config.turn : Nat → Turn

end Sys2Proof
end

