-- ==== Sys2Proof/WellFormed.lean ====
section
/-! DEFINITION. The static checks: which operations have an encoding (R303), which host accesses the block takes (R207),
which parameters an instance may have (R8). -/

namespace Sys2Proof

/-- The operations that have an encoding: every row but the two internal ones (R303). -/
def Instr.wf : Instr → Bool
  | .nop => true
  | .spiXfer _ => true
  | .spiSend _ => true
  | .spiRecv => true
  | .spiSetDiv => true
  | .spiSelect => true
  | .spiDeselect => true
  | .sdInit => true
  | .sdRead => true
  | .i2cStart => true
  | .i2cWrite _ => true
  | .i2cStop => true
  | .dacWrite _ => true
  | .pbStart => true
  | .pbStop => true
  | .clrFlags => true
  | .tick => false
  | .refill => false
  | .goIdleState => true
  | .sendIfCond => true
  | .appCmd => true
  | .sendOpCond => true
  | .readOcr => true
  | .readSingleBlock _ => true

/-- The offset of an access (R205, R206). -/
def HostAccess.off : HostAccess → Nat
  | .read off _ => off
  | .write off _ _ => off

/-- The size of an access in bytes. -/
def HostAccess.size : HostAccess → Nat
  | .read _ size => size
  | .write _ size _ => size

/-- An access the block takes: 4 bytes, aligned, inside 0x000..0xFFF (R207). -/
def HostAccess.wf (a : HostAccess) : Bool :=
  a.size == 4 && a.off % 4 == 0 && decide (a.off < 0x1000)

/-- The constraints of R8. -/
def Params.wf (p : Params) : Bool :=
  decide (1 ≤ p.r1PollLimit) && decide (1 ≤ p.opcondRetryLimit) && decide (1 ≤ p.tokenPollLimit) &&
  !p.supportedDivisors.isEmpty && p.supportedDivisors.all (· != 0) &&
  p.slowDivisor != 0 && p.fastDivisor != 0 &&
  decide (1 ≤ p.totalBlocks) && decide (p.totalBlocks ≤ 2 ^ 32) && decide (1 ≤ p.samplePeriod)

end Sys2Proof
end

