-- ==== Sys2Proof/Decode.lean ====
section
/-! DEFINITION. The encodings: the 32-bit command word (R300 to R302) and the 48-bit SD command frame (R310, R311), read by
a decoder that is total and names what it rejects, and written by an encoder made from the same tables. -/

namespace Sys2Proof

/-- Why a word or frame is no instruction. -/
inductive Reject where
  /-- `w[31:16] ≠ 0` (R302, R405). -/
  | reservedBits
  /-- An `OPC` that is not in the opcode map (R302, R405). -/
  | reservedOpcode
  /-- A 48-bit value that is none of the block's six frames (R311). -/
  | notAFrame
  deriving DecidableEq, Repr

/-- One encoded instruction: a word for the `CMD` register, or a frame for the SPI bus. -/
inductive Code where
  | command (w : Word)
  | frame (f : FrameWord)
  deriving DecidableEq, Repr

/-! ### The host command word -/

/-- `OPC = w[7:0]` (R300). -/
def opcOf (w : Word) : Byte := w.extractLsb' 0 8

/-- `DATA8 = w[15:8]` (R300, R304). -/
def data8Of (w : Word) : Byte := w.extractLsb' 8 8

/-- The reserved field `w[31:16]` (R300). -/
def reservedOf (w : Word) : Short := w.extractLsb' 16 16

/-- The opcode map of R301; `none` for every reserved value (R302). `DATA8` is kept only where the map says it is used. -/
def decodeOpcode (opc data8 : Byte) : Option Instr :=
  match opc.toNat with
  | 0x00 => some .nop
  | 0x01 => some (.spiXfer data8)
  | 0x02 => some (.spiSend data8)
  | 0x03 => some .spiRecv
  | 0x04 => some .spiSetDiv
  | 0x05 => some .spiSelect
  | 0x06 => some .spiDeselect
  | 0x10 => some .sdInit
  | 0x11 => some .sdRead
  | 0x20 => some .i2cStart
  | 0x21 => some (.i2cWrite data8)
  | 0x22 => some .i2cStop
  | 0x23 => some (.dacWrite data8)
  | 0x30 => some .pbStart
  | 0x31 => some .pbStop
  | 0x3F => some .clrFlags
  | _ => none

/-- Decoding from the three fields that `CUR` holds (R300, R400, R405). -/
def decodeFields (opc data8 : Byte) (reserved : Short) : Except Reject Instr :=
  if reserved = 0 then
    match decodeOpcode opc data8 with
    | some i => .ok i
    | none => .error .reservedOpcode
  else .error .reservedBits

/-- Decoding of a command word. -/
def decodeCommand (w : Word) : Except Reject Instr :=
  decodeFields (opcOf w) (data8Of w) (reservedOf w)

/-- A command word with `DATA8` and `OPC` in place and the reserved bits 0 (R300). -/
def commandWord (data8 opc : Byte) : Word := (0 : Short) ++ data8 ++ opc

/-! ### SD command frames -/

/-- The 48 bits of a frame: `0b01`, the 6-bit index, the argument, the check byte (R310). -/
def sdFrame (idx : BitVec 6) (arg : Word) (crc : Byte) : FrameWord :=
  (0b01 : BitVec 2) ++ idx ++ arg ++ crc

/-- Byte `k` of a frame, byte 0 sent first (R310, R450). -/
def frameByte (f : FrameWord) (k : Fin 6) : Byte := f.extractLsb' (40 - 8 * k.val) 8

/-- The argument of a frame, bits 39:8 (R303). -/
def frameArg (f : FrameWord) : Word := f.extractLsb' 8 32

/-- `CMD0_CRC` (R7). -/
def cmd0Crc : Byte := 0x95
/-- `CMD8_CRC` (R7). -/
def cmd8Crc : Byte := 0x87
/-- `OTHER_CRC`, the check byte of the other four commands (R7, R311). -/
def otherCrc : Byte := 0xFF
/-- `IF_COND_ARG` (R7). -/
def ifCondArg : Word := 0x000001AA
/-- `HCS_ARG` (R7). -/
def hcsArg : Word := 0x40000000

/-- The frame of GO_IDLE_STATE (R311). -/
def goIdleFrame : FrameWord := sdFrame 0 0 cmd0Crc
/-- The frame of SEND_IF_COND (R311). -/
def ifCondFrame : FrameWord := sdFrame 8 ifCondArg cmd8Crc
/-- The frame of APP_CMD (R311). -/
def appCmdFrame : FrameWord := sdFrame 55 0 otherCrc
/-- The frame of SEND_OP_COND (R311). -/
def opCondFrame : FrameWord := sdFrame 41 hcsArg otherCrc
/-- The frame of READ_OCR (R311). -/
def readOcrFrame : FrameWord := sdFrame 58 0 otherCrc
/-- The frame of READ_SINGLE_BLOCK with wire address `addr` (R311). -/
def readBlockFrame (addr : Word) : FrameWord := sdFrame 17 addr otherCrc

/-- The SD command a frame is; every 48-bit value that is none of the block's six is rejected (R311). -/
def decodeFrame (f : FrameWord) : Except Reject Instr :=
  if f = goIdleFrame then .ok .goIdleState
  else if f = ifCondFrame then .ok .sendIfCond
  else if f = appCmdFrame then .ok .appCmd
  else if f = opCondFrame then .ok .sendOpCond
  else if f = readOcrFrame then .ok .readOcr
  else if f = readBlockFrame (frameArg f) then .ok (.readSingleBlock (frameArg f))
  else .error .notAFrame

/-! ### Both levels -/

/-- The decoder, total on every command word and every frame. -/
def decode : Code → Except Reject Instr
  | .command w => decodeCommand w
  | .frame f => decodeFrame f

/-- The encoder: `DATA8` is 0 where the command ignores it (R330); the internal operations have no encoding (R303). -/
def encode : Instr → Option Code
  | .nop => some (.command (commandWord 0 0x00))
  | .spiXfer d => some (.command (commandWord d 0x01))
  | .spiSend d => some (.command (commandWord d 0x02))
  | .spiRecv => some (.command (commandWord 0 0x03))
  | .spiSetDiv => some (.command (commandWord 0 0x04))
  | .spiSelect => some (.command (commandWord 0 0x05))
  | .spiDeselect => some (.command (commandWord 0 0x06))
  | .sdInit => some (.command (commandWord 0 0x10))
  | .sdRead => some (.command (commandWord 0 0x11))
  | .i2cStart => some (.command (commandWord 0 0x20))
  | .i2cWrite d => some (.command (commandWord d 0x21))
  | .i2cStop => some (.command (commandWord 0 0x22))
  | .dacWrite d => some (.command (commandWord d 0x23))
  | .pbStart => some (.command (commandWord 0 0x30))
  | .pbStop => some (.command (commandWord 0 0x31))
  | .clrFlags => some (.command (commandWord 0 0x3F))
  | .tick => none
  | .refill => none
  | .goIdleState => some (.frame goIdleFrame)
  | .sendIfCond => some (.frame ifCondFrame)
  | .appCmd => some (.frame appCmdFrame)
  | .sendOpCond => some (.frame opCondFrame)
  | .readOcr => some (.frame readOcrFrame)
  | .readSingleBlock addr => some (.frame (readBlockFrame addr))

/-- The code whose bits are `w`, as spec/opcode_table.json numbers them (R303): up to 32 bits a command word, up to 48 an
SD frame. -/
def tableCode (nbits w : Nat) : Option Code :=
  if nbits ≤ 32 then some (.command (BitVec.ofNat 32 w))
  else if nbits ≤ 48 then some (.frame (BitVec.ofNat 48 w))
  else none

/-- The instruction the decoder reads from a row's bits. -/
def decodeTableWord (nbits w : Nat) : Option Instr :=
  match tableCode nbits w with
  | some c => (decode c).toOption
  | none => none

end Sys2Proof
end

