-- ==== Sys2Proof/Machine/Divisor.lean ====
section
/-! DEFINITION. The SPI divisor fallback (R422). -/

namespace Sys2Proof.Machine

/-- `|s − d|`. -/
def divisorDistance (s d : Short) : Nat :=
  if s.toNat ≤ d.toNat then d.toNat - s.toNat else s.toNat - d.toNat

/-- `t` is a better fallback for `d` than `s`: nearer, or as near and larger (R422). -/
def betterDivisor (d s t : Short) : Bool :=
  decide (divisorDistance t d < divisorDistance s d) ||
    (divisorDistance t d == divisorDistance s d && decide (s.toNat < t.toNat))

/-- The best of `s` and the divisors of a list. -/
def bestDivisor (d : Short) : Short → List Short → Short
  | s, [] => s
  | s, t :: ts => bestDivisor d (if betterDivisor d s t then t else s) ts

/-- `nearest(d)` over the set of supported divisors (R422); the set of an instance is not empty (R8). -/
def nearestOf (set : List Short) (d : Short) : Short :=
  match set with
  | [] => d
  | s :: ts => bestDivisor d s ts

end Sys2Proof.Machine
end

