-- ==== Sys2Proof/Machine/Memory.lean ====
section
/-! DEFINITION. The block's two byte memories, `RING` and `SCRATCH` (R120, R121), as lists of (index, byte) pairs in one
canonical form: indices strictly rising, no entry equal to what an unlisted index reads as. -/

namespace Sys2Proof.Machine

/-- A byte memory in canonical form. -/
abbrev Memory := List Host.Cell

/-- What an index that is not listed reads as: the reset contents `0x00` (R120, R121, R700). -/
def unlisted : Byte := 0x00

/-- `RING_SIZE` (R6). -/
def ringSize : Nat := 400
/-- `HALF_SIZE` (R6). -/
def halfSize : Nat := 200
/-- `BLOCK_SIZE`, which is also the size of `SCRATCH` (R6, R121). -/
def blockSize : Nat := 512

/-- The byte at index `a`. -/
def readByte : Memory → Nat → Byte
  | [], _ => unlisted
  | (b, v) :: m, a => if b = a then v else readByte m a

/-- The memory with byte `v` at index `a`; writing the unlisted value removes the entry. -/
def writeByte : Memory → Nat → Byte → Memory
  | [], a, v => if v = unlisted then [] else [(a, v)]
  | (b, w) :: m, a, v =>
    if a < b then (if v = unlisted then (b, w) :: m else (a, v) :: (b, w) :: m)
    else if a = b then (if v = unlisted then m else (a, v) :: m)
    else (b, w) :: writeByte m a v

/-- Every index of `m` is at least `lo`, they rise strictly, and no listed byte is the unlisted one. -/
def canonicalFrom : Nat → Memory → Bool
  | _, [] => true
  | lo, (a, v) :: m => decide (lo ≤ a) && v != unlisted && canonicalFrom (a + 1) m

/-- The canonical form. -/
def memoryWf (m : Memory) : Bool := canonicalFrom 0 m

/-- Every listed index is below `n`. -/
def memoryBelow (n : Nat) (m : Memory) : Bool := m.all (fun c => decide (c.1 < n))

/-- The 32-bit word whose byte `i` is the memory's byte `a + i`, the lowest index in bits 7:0 (R212, R213, R220 item 6). -/
def readWordLE (m : Memory) (a : Nat) : Word :=
  readByte m (a + 3) ++ readByte m (a + 2) ++ readByte m (a + 1) ++ readByte m a

end Sys2Proof.Machine
end

