-- ==== Sys2Proof/Machine/State.lean ====
section
/-! DEFINITION. The state of the block (10_state.md): every element of R125, the event history of R23, the `AccessFault`
record of R207, and the model's own part `cfg` and `env` that holds what R101 makes an argument of the step relation.
Plain data throughout. -/

namespace Sys2Proof.Machine

/-- A half of the ring: Lower = 0..199, Upper = 200..399 (R6, R120). -/
inductive Half where
  | lower
  | upper
  deriving DecidableEq, Repr

/-- `CARD` (R109). -/
inductive Card where
  | uninitialized
  | idleStandard
  | idleHighCapacity
  | failed
  deriving DecidableEq, Repr

/-- The result codes 0 to 11 (R600); 12 to 15 are reserved and never produced. -/
inductive ResultCode where
  | ok
  | initNotResponding
  | initUnsupportedCard
  | initVoltageCheckFailed
  | initTimeout
  | ioOffsetOutOfRange
  | ioCommandRejected
  | ioDataTokenTimeout
  | errNotReady
  | errBusy
  | errIllegal
  | errState
  deriving DecidableEq, Repr

/-- The kinds of hazard that the history records (R535, R551, R552). -/
inductive HazardKind where
  | underrun
  | signalOverrun
  | tickLost
  deriving DecidableEq, Repr

/-- An event of the history (R23). -/
inductive Event where
  | spi (cs : Bool) (tx rx : Byte)
  | cs (v : Bool)
  | i2cStart
  | i2cByte (b : Byte) (ack : Bool)
  | i2cStop
  | signal (h : Half)
  | hazard (k : HazardKind)
  deriving DecidableEq, Repr

/-- The SD commands that SD_INIT sends, with the number of SEND_OP_COND attempts already used up where it matters
(R455 to R458). -/
inductive InitCommand where
  | goIdle
  | ifCond
  | appCmd (used : Nat)
  | opCond (used : Nat)
  | readOcr
  deriving DecidableEq, Repr

/-- Where one `sd_cmd` is (R450, R451). -/
inductive SdPos where
  /-- Frame byte `k` is sent next. -/
  | frame (k : Fin 6)
  /-- `polled` bytes have been received without a response; one more is received next. -/
  | poll (polled : Nat)
  deriving DecidableEq, Repr

/-- Where SD_INIT is after its wake-up bytes (R453). -/
inductive InitPos where
  | command (c : InitCommand) (p : SdPos)
  /-- Reply byte `k` of SEND_IF_COND is received next (R456). -/
  | ifCondReply (k : Fin 4)
  /-- Reply byte `k` of READ_OCR is received next; `o` is the first one, once it has come (R458). -/
  | ocrReply (k : Fin 4) (o : Byte)
  deriving DecidableEq, Repr

/-- Where one `read_partial` is (R466). -/
inductive ReadPos where
  /-- The command frame and its R1 poll. -/
  | command (p : SdPos)
  /-- `polled` bytes have been received without a token. -/
  | token (polled : Nat)
  /-- Data byte `k` is received next. -/
  | data (k : Fin 512)
  /-- Check byte `k` is received next. -/
  | check (k : Fin 2)
  deriving DecidableEq, Repr

/-- One `read_partial` under way: the argument of its command and its position. -/
structure ReadSeq where
  addr : Word
  pos : ReadPos
  deriving DecidableEq, Repr

/-- The command engine's sequencer position (R103): which step of the command's pseudocode runs next. -/
inductive CmdPos where
  /-- The decode step (R402). -/
  | decode
  /-- SD_INIT has sent `sent` wake-up bytes (R454). -/
  | wake (sent : Fin 10)
  | init (p : InitPos)
  | read (r : ReadSeq)
  /-- Waits for the one primitive of I2C_START, I2C_WRITE or I2C_STOP. -/
  | i2c
  /-- Waits for primitive `k` of a DAC frame (R505). -/
  | dac (k : Fin 6)
  deriving DecidableEq, Repr

/-- `CUR`, the command being executed (R103, R400): the three fields of its word, the snapshot of `BLOCK`, `XFER` and
`DIVREQ`, the sequencer position. -/
structure Command where
  opc : Byte
  data8 : Byte
  reserved : Short
  block : Word
  xfer : Word
  divreq : Short
  pos : CmdPos
  deriving DecidableEq, Repr

/-- `PROD` (R117). -/
inductive Producer where
  | waiting
  | filling (h : Half) (r : ReadSeq)
  deriving DecidableEq, Repr

/-- The model's own part of the state: the arguments that R101 gives the step relation, as plain data. Each list holds
answers or choices given in advance; where it is empty the free value of Config takes its place, applied to the counter. -/
structure Env where
  /-- The agents of the coming steps. -/
  sched : List Turn
  /-- How many steps have been taken. -/
  stepCount : Nat
  /-- The card's answers to the coming transfers. -/
  cardIn : List Byte
  /-- How many transfers have been made. -/
  cardCount : Nat
  /-- The I2C oracle's answers for the coming primitives. -/
  i2cIn : List I2cAnswer
  /-- How many primitives have completed. -/
  i2cCount : Nat
  /-- The value the host's last read returned; the host's own, no state of the block (R205). -/
  readData : Word
  deriving DecidableEq, Repr

structure State where
  /-- R102. -/
  busy : Bool
  /-- `CUR`, R103. -/
  cur : Option Command
  /-- R104. -/
  result : ResultCode
  /-- R105. -/
  rx : Byte
  /-- R106. -/
  block : Word
  /-- R106: `OFFSET` = bits 15:0, `LENGTH` = bits 31:16. -/
  xfer : Word
  /-- R106. -/
  divreq : Short
  /-- True = selected, R107. -/
  cs : Bool
  /-- R108. -/
  div : Short
  /-- R109. -/
  card : Card
  /-- R110. -/
  i2cOpen : Bool
  /-- R111. -/
  playing : Bool
  /-- R112. -/
  tickLatch : Bool
  /-- R113. -/
  inHandler : Bool
  /-- R113. -/
  hsample : Byte
  /-- How many primitives of the handler's DAC frame have completed, 0..6 (R113). -/
  hpos : Fin 7
  /-- R114. -/
  playIndex : BitVec 9
  /-- `PENDING`, R115; `none` is the spec's `None`. -/
  pending : Option Half
  /-- R116. -/
  sem : Nat
  /-- R117. -/
  prod : Producer
  /-- R118. -/
  cursor : Word
  /-- R119. -/
  underrun : Bool
  /-- R119. -/
  sigOverrun : Bool
  /-- R119. -/
  tickLost : Bool
  /-- R119. -/
  cmdLost : Bool
  /-- R119. -/
  refillErr : Bool
  /-- R122. -/
  rerr : ResultCode
  /-- R120. -/
  ring : Memory
  /-- R121. -/
  scratch : Memory
  /-- The event history, oldest first (R23). -/
  history : List Event
  /-- The recorded `AccessFault(off)` (R207, R602). -/
  accessFault : Option Nat
  /-- The parameters of the instance (R8); no step writes them. -/
  cfg : Params
  /-- The answers of the devices and the schedule (R20, R101). -/
  env : Env
  deriving DecidableEq, Repr

/-- Why the machine stops. -/
inductive Fault where
  /-- Raised by the handler's entry when `PLAY_INDEX` is 400 or more, so that there is no such ring byte (R114, R120).
  Safe: R114 says these values never occur, and no run from reset reaches one. -/
  | ringIndex
  deriving DecidableEq, Repr

/-- Why an operation has no next state. -/
inductive Refusal where
  /-- Raised by an arm of exec for an instruction without a meaning. Safe: the run stops. -/
  | notModelled (mnemonic : String)
  /-- Raised by every meaning in a state in which the spec gives that operation no step: it is not the operation under way,
  its agent is held by the handler or a latched tick (R620), or it waits for an I2C primitive that never completes (R500).
  Safe: step turns it into a step in which that agent does nothing, and the other agents go on. -/
  | noStep
  deriving DecidableEq, Repr

/-- The answers and the schedule at reset: nothing given in advance. -/
def Env.reset : Env where
  sched := []
  stepCount := 0
  cardIn := []
  cardCount := 0
  i2cIn := []
  i2cCount := 0
  readData := 0

/-- The state after reset of an instance with parameters `p` (R700). -/
def State.resetOf (p : Params) : State where
  busy := false
  cur := none
  result := .ok
  rx := 0x00
  block := 0
  xfer := 0
  divreq := 0
  cs := false
  div := nearestOf p.supportedDivisors p.slowDivisor
  card := .uninitialized
  i2cOpen := false
  playing := false
  tickLatch := false
  inHandler := false
  hsample := 0
  hpos := 0
  playIndex := 0
  pending := none
  sem := 0
  prod := .waiting
  cursor := 0
  underrun := false
  sigOverrun := false
  tickLost := false
  cmdLost := false
  refillErr := false
  rerr := .ok
  ring := []
  scratch := []
  history := []
  accessFault := none
  cfg := p
  env := Env.reset

/-- The machine right after reset (R700, R701), for an instance whose parameters nothing fixes (R8). -/
def State.reset : State := State.resetOf Config.params

end Sys2Proof.Machine
end

