-- ==== Sys2Proof/Machine/Operands.lean ====
section
/-! DEFINITION. The operands: what a command takes from its word and its snapshot (R304), the address arithmetic (R452,
R547), and the constants of R6 and R7 that the sequencers compare with. -/

namespace Sys2Proof.Machine

/-! ### Constants (R6, R7) -/

/-- `FILLER` (R7). -/
def filler : Byte := 0xFF
/-- `R1_IDLE` (R7). -/
def r1Idle : Byte := 0x01
/-- `R1_READY` (R7). -/
def r1Ready : Byte := 0x00
/-- `IF_COND_PATTERN` (R7). -/
def ifCondPattern : Byte := 0xAA
/-- `CCS_MASK` (R7). -/
def ccsMask : Byte := 0x40
/-- `DATA_TOKEN` (R7). -/
def dataToken : Byte := 0xFE

/-! ### Operands of a command (R304) -/

/-- The instruction that the fields of `CUR` decode to (R300, R405). -/
def Command.instr (c : Command) : Except Reject Instr := decodeFields c.opc c.data8 c.reserved

/-- `offset` of SD_READ, from the snapshot of `XFER` (R304); a natural number, so that no sum wraps. -/
def Command.offset (c : Command) : Nat := (c.xfer.extractLsb' 0 16).toNat

/-- `length` of SD_READ (R304). -/
def Command.length (c : Command) : Nat := (c.xfer.extractLsb' 16 16).toNat

/-- The range check of SD_READ (R465 check 3). -/
def outOfRange (offset length : Nat) : Bool :=
  decide (offset ≥ blockSize) || decide (offset + length > blockSize)

/-! ### Responses -/

/-- A received byte is a response when its bit 7 is clear (R312, R451). -/
def isResponse (r : Byte) : Bool := !r.getLsbD 7

/-- The card is high-capacity (R459). -/
def highCapacity (o : Byte) : Bool := (o &&& ccsMask) != 0

/-- The state `CARD` takes after a successful initialization (R460). -/
def classify (o : Byte) : Card := if highCapacity o then .idleHighCapacity else .idleStandard

/-! ### Addresses -/

/-- `CARD ∈ {IdleStandard, IdleHighCapacity}` (R402, R546). -/
def Card.ready : Card → Bool
  | .idleStandard => true
  | .idleHighCapacity => true
  | .uninitialized => false
  | .failed => false

/-- `wire_addr(n)` (R452): the block number times 512, modulo 2^32, for a standard-capacity card, and the block number for a
high-capacity one. It is called for these two states only. -/
def wireAddr (card : Card) (n : Word) : Word :=
  if card = .idleStandard then n * 512 else n

/-- The half an index lies in (R120). -/
def halfOf (i : Nat) : Half := if i < halfSize then .lower else .upper

/-- `off(h)` (R547). -/
def halfOffset : Half → Nat
  | .lower => 0
  | .upper => halfSize

/-- `n(h)`, the block a refill reads (R547). -/
def refillBlock (p : Params) (cursor : Word) : Word := p.startBlock + cursor

/-- `(CURSOR + 1) mod TOTAL_BLOCKS` (R549). -/
def nextCursor (p : Params) (cursor : Word) : Word :=
  BitVec.ofNat 32 ((cursor.toNat + 1) % p.totalBlocks)

/-! ### I2C primitives and the DAC frame -/

/-- The three primitives (R500). -/
inductive I2cPrim where
  | start
  | write (b : Byte)
  | stop
  deriving DecidableEq, Repr

/-- `(addr << 1) | 0`: the 7-bit address over the R/W bit 0 (R203, R504). -/
def addressByte (addr : BitVec 7) : Byte := addr ++ (0 : BitVec 1)

/-- `dac_frame(v)`: the six primitives of one DAC write (R320, R505). -/
def dacFrame (p : Params) (v : Byte) : List I2cPrim :=
  [.start, .write (addressByte p.dacAddr), .write p.dacCmd, .write v, .write p.dacLow, .stop]

/-! ### SD commands of the initialization -/

/-- The wire-level instruction of a command of SD_INIT (R311). -/
def InitCommand.instr : InitCommand → Instr
  | .goIdle => .goIdleState
  | .ifCond => .sendIfCond
  | .appCmd _ => .appCmd
  | .opCond _ => .sendOpCond
  | .readOcr => .readOcr

/-- The frame a command of SD_INIT sends (R311, R453). -/
def InitCommand.frame : InitCommand → FrameWord
  | .goIdle => goIdleFrame
  | .ifCond => ifCondFrame
  | .appCmd _ => appCmdFrame
  | .opCond _ => opCondFrame
  | .readOcr => readOcrFrame

/-- The wire-level instruction a position of SD_INIT belongs to: a reply belongs to the command it answers. -/
def InitPos.instr : InitPos → Instr
  | .command c _ => c.instr
  | .ifCondReply _ => .sendIfCond
  | .ocrReply _ _ => .readOcr

end Sys2Proof.Machine
end

