-- ==== Sys2Proof/Machine/Flags.lean ====
section
/-! DEFINITION. The codes and flags a host reads: the numbers of the result codes (R600), the sticky flags (R119, R122),
the `STATUS` word (R211). -/

namespace Sys2Proof.Machine

/-- The number of a result code (R600). -/
def ResultCode.code : ResultCode → BitVec 4
  | .ok => 0
  | .initNotResponding => 1
  | .initUnsupportedCard => 2
  | .initVoltageCheckFailed => 3
  | .initTimeout => 4
  | .ioOffsetOutOfRange => 5
  | .ioCommandRejected => 6
  | .ioDataTokenTimeout => 7
  | .errNotReady => 8
  | .errBusy => 9
  | .errIllegal => 10
  | .errState => 11

/-- The number of a card state (R109, R211). -/
def Card.code : Card → BitVec 2
  | .uninitialized => 0
  | .idleStandard => 1
  | .idleHighCapacity => 2
  | .failed => 3

/-- The number of a pending refill (R115, R211). -/
def pendingCode : Option Half → BitVec 2
  | none => 0
  | some .lower => 1
  | some .upper => 2

/-- `PROD_ACTIVE` (R117, R211). -/
def Producer.active : Producer → Bool
  | .waiting => false
  | .filling _ _ => true

/-- The effect of CLRFLAGS on the flags (R407): the five sticky flags and `RERR`. -/
def clearFlags (s : State) : State :=
  { s with
    underrun := false
    sigOverrun := false
    tickLost := false
    cmdLost := false
    refillErr := false
    rerr := .ok }

/-- `refill_error(code)` (R550). -/
def refillError (code : ResultCode) (s : State) : State :=
  { s with refillErr := true, rerr := code }

/-- The `STATUS` word, from bit 31 down to bit 0 as the table of R211 reads from its last row to its first. -/
def statusWord (s : State) : Word :=
  (0 : BitVec 3) ++
  BitVec.ofBool s.refillErr ++
  BitVec.ofBool s.tickLost ++
  BitVec.ofBool s.cmdLost ++
  BitVec.ofBool s.sigOverrun ++
  BitVec.ofBool s.underrun ++
  s.rx ++
  (0 : BitVec 1) ++
  BitVec.ofBool s.tickLatch ++
  BitVec.ofBool s.inHandler ++
  BitVec.ofBool s.i2cOpen ++
  s.result.code ++
  BitVec.ofBool s.cs ++
  BitVec.ofBool s.prod.active ++
  pendingCode s.pending ++
  BitVec.ofBool s.playing ++
  s.card.code ++
  BitVec.ofBool s.busy

end Sys2Proof.Machine
end

