-- ==== Sys2Proof/Machine/Ops.lean ====
section
/-! DEFINITION. The named operations of the block: the primitives of R10, the end and the acceptance of a command (R400,
R403), arbitration and preemption (R404, R620), the refill signal (R545), the entry of the sample interrupt and the return
from it (R536, R538, R625, R626). -/

namespace Sys2Proof.Machine

/-- What a meaning answers. -/
abbrev Outcome := Host.Outcome State Fault Refusal

/-! ### The event history and the buses -/

/-- `record E` (R10, R23). -/
def record (e : Event) (s : State) : State := { s with history := s.history ++ [e] }

/-- `CS <- v; record Cs(v)` (R426, R427). -/
def selectCard (v : Bool) (s : State) : State := record (.cs v) { s with cs := v }

/-- The card oracle's answer to the next transfer (R20, R420): the one given in advance, else a free byte. -/
def cardAnswer (s : State) : Byte :=
  match s.env.cardIn with
  | b :: _ => b
  | [] => Config.cardByte s.env.cardCount

/-- The card has answered one transfer. -/
def takeCardAnswer (s : State) : State :=
  { s with env := { s.env with cardIn := s.env.cardIn.tail, cardCount := s.env.cardCount + 1 } }

/-- `xfer(b)` (R420): one transfer, which the history records with the byte received; that byte is `cardAnswer` of the
state before. -/
def xfer (b : Byte) (s : State) : State := takeCardAnswer (record (.spi s.cs b (cardAnswer s)) s)

/-- `recv()` (R421). -/
def recv (s : State) : State := xfer filler s

/-- The I2C oracle's answer for the primitive that waits (R20, R500): the one given in advance, else a free one. -/
def i2cAnswer (s : State) : I2cAnswer :=
  match s.env.i2cIn with
  | a :: _ => a
  | [] => Config.i2cAnswer s.env.i2cCount

/-- The I2C oracle has let one primitive complete. -/
def takeI2cAnswer (s : State) : State :=
  { s with env := { s.env with i2cIn := s.env.i2cIn.tail, i2cCount := s.env.i2cCount + 1 } }

/-- What the completion of a primitive records and writes (the table of R500). -/
def completePrim (prim : I2cPrim) (ack : Bool) (s : State) : State :=
  match prim with
  | .start => record .i2cStart { s with i2cOpen := true }
  | .write b => record (.i2cByte b ack) s
  | .stop => record .i2cStop { s with i2cOpen := false }

/-- The completion step of a primitive (R21, R500); `none` when the oracle never completes it. The ACK bit is recorded and
not read. -/
def i2cStep (prim : I2cPrim) (s : State) : Option State :=
  match i2cAnswer s with
  | .completes ack => some (completePrim prim ack (takeI2cAnswer s))
  | .never => none

/-! ### Commands -/

/-- `finish(code)` (R403). -/
def finish (code : ResultCode) (s : State) : State :=
  { s with result := code, busy := false, cur := none }

/-- The command engine's sequencer moves to `p`. -/
def setPos (p : CmdPos) (s : State) : State :=
  { s with cur := s.cur.map (fun c => { c with pos := p }) }

/-- What acceptance writes to `CUR` for the word `w` (R400, R401). -/
def accepted (w : Word) (s : State) : Command where
  opc := opcOf w
  data8 := data8Of w
  reserved := reservedOf w
  block := s.block
  xfer := s.xfer
  divreq := s.divreq
  pos := .decode

/-- A write to `CMD`: acceptance (R400), or the command is lost (R408). -/
def issue (w : Word) (s : State) : State :=
  if s.busy then { s with cmdLost := true }
  else { s with busy := true, cur := some (accepted w s) }

/-- The preemption condition on a step of `CMD` or `PROD` (R620). -/
def taskReady (s : State) : Bool := !s.inHandler && !(s.playing && s.tickLatch)

/-- SPI and SD commands are refused (R404). -/
def spiBusy (s : State) : Bool := s.playing || s.prod.active || decide (s.sem > 0)

/-- I2C and DAC commands are refused (R404). -/
def i2cBusy (s : State) : Bool := s.playing

/-- The command engine is past the decode step of SD_INIT or SD_READ: it is running an SPI-class command (R546). -/
def spiRunning (s : State) : Bool :=
  match s.cur with
  | some c =>
    match c.pos with
    | .wake _ => true
    | .init _ => true
    | .read _ => true
    | .decode => false
    | .i2c => false
    | .dac _ => false
  | none => false

/-- A step of the command engine on the command `i`: `body` runs when `i` is the command being executed and the engine is not
preempted (R103, R409, R620). -/
def onCommand (i : Instr) (s : State) (body : Command → Outcome) : Outcome :=
  match s.cur with
  | some c => if taskReady s = true ∧ c.instr = .ok i then body c else .refused .noStep
  | none => .refused .noStep

/-- A command whose whole effect is in its decode step (R402 step 5). -/
def inDecodeStep (i : Instr) (s : State) (effect : Command → State) : Outcome :=
  onCommand i s fun c => if c.pos = .decode then .next (effect c) else .refused .noStep

/-- Decode check 2 for the SPI class (R402, R404). -/
def unlessSpiBusy (s s' : State) : State := if spiBusy s then finish .errBusy s else s'

/-- The decode step of an illegal word (R402 check 1, R405). -/
def illegalCommand (c : Command) (s : State) : Outcome :=
  if taskReady s = true ∧ c.pos = .decode then .next (finish .errIllegal s) else .refused .noStep

/-! ### The refill signal (R545) -/

/-- Signal overrun detection (R552). -/
def noteSignalOverrun (s : State) : State :=
  if s.pending.isSome then record (.hazard .signalOverrun) { s with sigOverrun := true } else s

/-- `signal(h)` (R545). -/
def signal (h : Half) (s : State) : State :=
  let s := noteSignalOverrun s
  record (.signal h) { s with pending := some h, sem := s.sem + 1 }

/-! ### The sample interrupt: entry and return -/

/-- The producer is filling the half that `PLAY_INDEX` is in (R551). -/
def underrunNow (s : State) : Bool :=
  match s.prod with
  | .waiting => false
  | .filling h _ => decide (halfOf s.playIndex.toNat = h)

/-- Underrun detection (R551). -/
def noteUnderrun (s : State) : State :=
  if underrunNow s then record (.hazard .underrun) { s with underrun := true } else s

/-- Handler entry (R536, R625): the latch is cleared, the sample is read, the first primitive of its DAC frame is issued.
No state of the preempted task is saved or changed. -/
def enterHandler (s : State) : State :=
  { noteUnderrun s with
    tickLatch := false
    inHandler := true
    hsample := readByte s.ring s.playIndex.toNat
    hpos := 0 }

/-- The index and the signal of the handler's exit (R538 to R540). -/
def advancePlayIndex (s : State) : State :=
  let i := s.playIndex + 1
  if i = 200 then signal .lower { s with playIndex := i }
  else if i = 400 then signal .upper { s with playIndex := 0 }
  else { s with playIndex := i }

/-- Handler exit (R538, R626): nothing is restored. -/
def exitHandler (s : State) : State := { advancePlayIndex s with inHandler := false }

/-! ### The schedule -/

/-- The agent whose step is next (R21, R621): the one given in advance, else a free choice. -/
def State.turn (s : State) : Turn :=
  match s.env.sched with
  | t :: _ => t
  | [] => Config.turn s.env.stepCount

/-- The next step is one of the agent `a`; the schedule goes on after it. -/
def State.withTurn (s : State) (a : Turn) : State := { s with env := { s.env with sched := a :: s.env.sched } }

/-- One step of the schedule is over. -/
def State.advance (s : State) : State :=
  { s with env := { s.env with sched := s.env.sched.tail, stepCount := s.env.stepCount + 1 } }

/-- What a step of an agent comes to: its next state; or, when the agent has no step, nothing but the passing of its turn
(R21, R500, R620). -/
def settle (s : State) (o : Outcome) : Outcome :=
  match o with
  | .next t => .next t.advance
  | .fault f => .fault f
  | .refused r => if r = .noStep then .next s.advance else .refused r

end Sys2Proof.Machine
end

