-- ==== Sys2Proof/Machine/I2cDac.lean ====
section
/-! DEFINITION. The I2C commands and DAC_WRITE (43_i2c_dac.md). The decode step issues the first primitive; every completion is
a step of its own (R21, R500). -/

namespace Sys2Proof.Machine

/-- Decode checks 2 and 4 of an I2C command that needs `I2C_OPEN = needs` (R402, R404, R501 to R503, R506); the command goes
on to position `p` with its first primitive issued. -/
def i2cDecode (needs : Bool) (p : CmdPos) (s : State) : State :=
  if i2cBusy s then finish .errBusy s
  else if s.i2cOpen = needs then setPos p s
  else finish .errState s

/-- The completion step of a command that is one primitive (R501 to R503). -/
def singlePrimStep (prim : I2cPrim) (s : State) : Outcome :=
  match i2cStep prim s with
  | some t => .next (finish .ok t)
  | none => .refused .noStep

/-- A command that is one primitive (R501 to R503). -/
def singlePrim (i : Instr) (needs : Bool) (prim : I2cPrim) (s : State) : Outcome :=
  onCommand i s fun c =>
    match c.pos with
    | .decode => .next (i2cDecode needs .i2c s)
    | .i2c => singlePrimStep prim s
    | .wake _ => .refused .noStep
    | .init _ => .refused .noStep
    | .read _ => .refused .noStep
    | .dac _ => .refused .noStep

/-- I2C_START (R501). -/
def execI2cStart (s : State) : Outcome := singlePrim .i2cStart false .start s

/-- I2C_WRITE (R502): a NACK has the effect of an ACK. -/
def execI2cWrite (data8 : Byte) (s : State) : Outcome := singlePrim (.i2cWrite data8) true (.write data8) s

/-- I2C_STOP (R503). -/
def execI2cStop (s : State) : Outcome := singlePrim .i2cStop true .stop s

/-- After primitive `k` of a command's DAC frame: the next one is issued, or the command finishes (R505, R506). -/
def afterDacPrim (k : Fin 6) (s : State) : State :=
  if h : k.val + 1 < 6 then setPos (.dac ⟨k.val + 1, h⟩) s else finish .ok s

/-- The completion step of primitive `k` of the DAC frame of sample `v`, run by the command engine (R505). -/
def commandDacStep (v : Byte) (k : Fin 6) (s : State) : Outcome :=
  match (dacFrame s.cfg v)[k.val]? with
  | some prim =>
    match i2cStep prim s with
    | some t => .next (afterDacPrim k t)
    | none => .refused .noStep
  | none => .refused .noStep

/-- DAC_WRITE (R506). -/
def execDacWrite (data8 : Byte) (s : State) : Outcome :=
  onCommand (.dacWrite data8) s fun c =>
    match c.pos with
    | .decode => .next (i2cDecode false (.dac 0) s)
    | .dac k => commandDacStep data8 k s
    | .wake _ => .refused .noStep
    | .init _ => .refused .noStep
    | .read _ => .refused .noStep
    | .i2c => .refused .noStep

end Sys2Proof.Machine
end

