-- ==== Sys2Proof/Machine/SdOps.lean ====
section
/-! DEFINITION. The shared SD procedures of 42_sd.md, one bus transfer a step: the command frame and its R1 poll (R450,
R451), SD_INIT after its wake-up bytes (R455 to R461), and `read_partial` (R466). -/

namespace Sys2Proof.Machine

/-! ### Frame and poll -/

/-- The position after frame byte `k` (R450, R451). -/
def afterFrameByte (k : Fin 6) : SdPos := if h : k.val + 1 < 6 then .frame ⟨k.val + 1, h⟩ else .poll 0

/-- The R1 poll ends with the byte `r`, received after `polled` others: it is a response, or the limit is reached (R451). -/
def pollEnds (p : Params) (polled : Nat) (r : Byte) : Bool :=
  isResponse r || decide (p.r1PollLimit ≤ polled + 1)

/-! ### Initialization -/

/-- `fail_init(code)` (R461). -/
def failInit (code : ResultCode) (s : State) : State :=
  finish code { selectCard false s with card := .failed }

/-- The end of a successful initialization, `o` the first byte of the OCR (R459, R460). -/
def finishInit (o : Byte) (s : State) : State :=
  let s := selectCard false s
  finish .ok { s with div := nearestOf s.cfg.supportedDivisors s.cfg.fastDivisor, card := classify o }

/-- The sequencer goes on with the command `c` of the initialization. -/
def startInit (c : InitCommand) (s : State) : State := setPos (.init (.command c (.frame 0))) s

/-- What the response `r` to a command of the initialization leads to (R455 to R458). -/
def initResponse (c : InitCommand) (r : Byte) (s : State) : State :=
  match c with
  | .goIdle => if r = r1Idle then startInit .ifCond s else failInit .initNotResponding s
  | .ifCond => if r = r1Idle then setPos (.init (.ifCondReply 0)) s else failInit .initUnsupportedCard s
  | .appCmd used => startInit (.opCond used) s
  | .opCond used =>
    if r = r1Ready then startInit .readOcr s
    else if used + 1 < s.cfg.opcondRetryLimit then startInit (.appCmd (used + 1)) s
    else failInit .initTimeout s
  | .readOcr => if r = r1Ready then setPos (.init (.ocrReply 0 0)) s else failInit .initNotResponding s

/-- GO_IDLE_STATE selects the card, in the step of its first frame byte (R455). -/
def selectBefore (c : InitCommand) (k : Fin 6) (s : State) : State :=
  if c = .goIdle ∧ k = 0 then selectCard true s else s

/-- One step of SD_INIT at position `p`, which is one transfer (R453, R455 to R461). -/
def initStep (p : InitPos) (s : State) : State :=
  match p with
  | .command c (.frame k) =>
    setPos (.init (.command c (afterFrameByte k))) (xfer (frameByte c.frame k) (selectBefore c k s))
  | .command c (.poll polled) =>
    let r := cardAnswer s
    if pollEnds s.cfg polled r then initResponse c r (recv s)
    else setPos (.init (.command c (.poll (polled + 1)))) (recv s)
  | .ifCondReply k =>
    let e := cardAnswer s
    if h : k.val + 1 < 4 then setPos (.init (.ifCondReply ⟨k.val + 1, h⟩)) (recv s)
    else if e = ifCondPattern then startInit (.appCmd 0) (recv s)
    else failInit .initVoltageCheckFailed (recv s)
  | .ocrReply k o =>
    let o' := if k = 0 then cardAnswer s else o
    if h : k.val + 1 < 4 then setPos (.init (.ocrReply ⟨k.val + 1, h⟩ o')) (recv s)
    else finishInit o' (recv s)

/-! ### The partial read -/

/-- The destination of a read (R466). -/
inductive Dest where
  | scratch
  | ring
  deriving DecidableEq, Repr

/-- `dest[k] <- b`. -/
def storeByte (d : Dest) (k : Nat) (b : Byte) (s : State) : State :=
  match d with
  | .scratch => { s with scratch := writeByte s.scratch k b }
  | .ring => { s with ring := writeByte s.ring k b }

/-- Data byte `k` is stored when `offset ≤ k < offset + length` (R466, R469). -/
def storeInRange (d : Dest) (offset length k : Nat) (b : Byte) (s : State) : State :=
  if offset ≤ k ∧ k < offset + length then storeByte d k b s else s

/-- Where a read goes after a step: on to a position, or to its end with a code. -/
inductive ReadNext where
  | go (p : ReadPos)
  | done (code : ResultCode)
  deriving DecidableEq, Repr

/-- Where a read goes from position `p` when the card's answer is `b` (R466, R470). -/
def readNext (cfg : Params) (p : ReadPos) (b : Byte) : ReadNext :=
  match p with
  | .command (.frame k) => .go (.command (afterFrameByte k))
  | .command (.poll polled) =>
    if pollEnds cfg polled b then (if b = r1Ready then .go (.token 0) else .done .ioCommandRejected)
    else .go (.command (.poll (polled + 1)))
  | .token polled =>
    if b = dataToken then .go (.data 0)
    else if cfg.tokenPollLimit ≤ polled + 1 then .done .ioDataTokenTimeout
    else .go (.token (polled + 1))
  | .data k => if h : k.val + 1 < 512 then .go (.data ⟨k.val + 1, h⟩) else .go (.check 0)
  | .check k => if k = 0 then .go (.check 1) else .done .ok

/-- The transfer of a read at position `p`, with the selection before its first byte and the store of a data byte (R466). -/
def readTransfer (d : Dest) (offset length : Nat) (addr : Word) (p : ReadPos) (s : State) : State :=
  match p with
  | .command (.frame k) =>
    xfer (frameByte (readBlockFrame addr) k) (if k = 0 then selectCard true s else s)
  | .command (.poll _) => recv s
  | .token _ => recv s
  | .data k => storeInRange d offset length k.val (cardAnswer s) (recv s)
  | .check _ => recv s

/-- One step of `read_partial` (R466): the transfer, and the deselection when the read ends. -/
def readStep (d : Dest) (offset length : Nat) (r : ReadSeq) (s : State) : ReadNext × State :=
  let n := readNext s.cfg r.pos (cardAnswer s)
  let t := readTransfer d offset length r.addr r.pos s
  match n with
  | .go _ => (n, t)
  | .done _ => (n, selectCard false t)

/-- One step of the read of SD_READ by the command engine (R465, R466). -/
def commandReadStep (c : Command) (r : ReadSeq) (s : State) : State :=
  match readStep .scratch c.offset c.length r s with
  | (.go p, t) => setPos (.read { r with pos := p }) t
  | (.done code, t) => finish code t

/-! ### The end of a refill -/

/-- The flags of a refill that ended with `code` (R549, R550). -/
def noteRefillResult (code : ResultCode) (s : State) : State :=
  if code = .ok then s else refillError code s

/-- The cursor advances after an Upper fill (R549). -/
def advanceCursor (h : Half) (s : State) : State :=
  match h with
  | .upper => { s with cursor := nextCursor s.cfg s.cursor }
  | .lower => s

/-- REFILL completion (R549). -/
def finishRefill (h : Half) (code : ResultCode) (s : State) : State :=
  { advanceCursor h (noteRefillResult code s) with prod := .waiting }

/-- One step of a fill by the producer (R548, R549). -/
def producerReadStep (h : Half) (r : ReadSeq) (s : State) : State :=
  match readStep .ring (halfOffset h) halfSize r s with
  | (.go p, t) => { t with prod := .filling h { r with pos := p } }
  | (.done code, t) => finishRefill h code t

end Sys2Proof.Machine
end

