-- ==== Sys2Proof/Machine/Audio.lean ====
section
/-! DEFINITION. Playback control, the consumer (TICK) and the producer (REFILL) of 44_audio.md, and the sample tick source. -/

namespace Sys2Proof.Machine

/-! ### Playback control -/

/-- PB_START (R531): all in the decode step. -/
def execPbStart (s : State) : Outcome :=
  inDecodeStep .pbStart s fun _ =>
    if s.i2cOpen then finish .errBusy s
    else if s.playing then finish .ok s
    else if s.card.ready then finish .ok { s with playing := true }
    else finish .errNotReady s

/-- The decode step of PB_STOP (R532): the interrupt is disabled and the silence frame's START is issued. -/
def pbStopDecode (s : State) : State :=
  if s.playing then setPos (.dac 0) { s with playing := false, tickLatch := false } else finish .ok s

/-- PB_STOP (R532). -/
def execPbStop (s : State) : Outcome :=
  onCommand .pbStop s fun c =>
    match c.pos with
    | .decode => .next (pbStopDecode s)
    | .dac k => commandDacStep s.cfg.silenceSample k s
    | .wake _ => .refused .noStep
    | .init _ => .refused .noStep
    | .read _ => .refused .noStep
    | .i2c => .refused .noStep

/-! ### The tick source -/

/-- A step of `TICKSRC` (R535, R612); while playback is stopped it has none. -/
def tickSource (s : State) : State :=
  if s.playing then
    if s.tickLatch then record (.hazard .tickLost) { s with tickLost := true }
    else { s with tickLatch := true }
  else s

/-! ### The consumer -/

/-- After a completed primitive of the handler's frame: the next one is issued, or the handler exits (R537, R538). -/
def handlerAdvance (s : State) : State :=
  let s := { s with hpos := s.hpos + 1 }
  if s.hpos = 6 then exitHandler s else s

/-- The completion step of the primitive that the handler waits for (R537, R538). -/
def handlerStep (s : State) : Outcome :=
  match (dacFrame s.cfg s.hsample)[s.hpos.val]? with
  | some prim =>
    match i2cStep prim s with
    | some t => .next (handlerAdvance t)
    | none => .refused .noStep
  | none => .refused .noStep

/-- TICK (R536 to R538): the next step of the consumer, the handler's entry or a completion of its frame. -/
def execTick (s : State) : Outcome :=
  if s.inHandler then handlerStep s
  else if s.playing && s.tickLatch then
    if s.playIndex.toNat < ringSize then .next (enterHandler s) else .fault .ringIndex
  else .refused .noStep

/-! ### The producer -/

/-- The wake step of the producer (R546, R547). -/
def refillWake (s : State) : State :=
  let woken := { s with sem := s.sem - 1, pending := none }
  match s.pending with
  | none => woken
  | some h =>
    if s.card.ready then
      producerReadStep h
        { addr := wireAddr s.card (refillBlock s.cfg s.cursor), pos := .command (.frame 0) } woken
    else refillError .errNotReady woken

/-- REFILL (R546 to R549): the next step of the producer, its wake or the next transfer of its fill. -/
def execRefill (s : State) : Outcome :=
  if taskReady s then
    match s.prod with
    | .waiting => if s.sem > 0 ∧ spiRunning s = false then .next (refillWake s) else .refused .noStep
    | .filling h r => .next (producerReadStep h r s)
  else .refused .noStep

end Sys2Proof.Machine
end

