-- ==== Sys2Proof/Machine/Control.lean ====
section
/-! DEFINITION. The commands NOP and CLRFLAGS (40_command_dispatch.md). -/

namespace Sys2Proof.Machine

/-- NOP (R406). -/
def execNop (s : State) : Outcome := inDecodeStep .nop s fun _ => finish .ok s

/-- CLRFLAGS (R407). -/
def execClrFlags (s : State) : Outcome := inDecodeStep .clrFlags s fun _ => finish .ok (clearFlags s)

end Sys2Proof.Machine
end

