-- ==== Sys2Proof/Machine/Sd.lean ====
section
/-! DEFINITION. SD_INIT and SD_READ (42_sd.md), and the six SD commands at wire level (R311). One step is one transfer (R21).
The meaning of a wire-level command is the next step of the procedure that is sending it: its frame, its R1 poll, its
reply, and what its response leads to. -/

namespace Sys2Proof.Machine

/-- The wake-up byte that follows `sent` others (R454). -/
def wakeStep (sent : Fin 10) (s : State) : State :=
  if h : sent.val + 1 < 10 then setPos (.wake ⟨sent.val + 1, h⟩) (xfer filler s)
  else startInit .goIdle (xfer filler s)

/-- The decode step of SD_INIT: the checks, the slow divisor, the deselection and the first wake-up byte (R453, R454). -/
def sdInitDecode (s : State) : State :=
  unlessSpiBusy s <|
    if s.card = .uninitialized then
      wakeStep 0 (selectCard false { s with div := nearestOf s.cfg.supportedDivisors s.cfg.slowDivisor })
    else finish .errState s

/-- SD_INIT (R453). -/
def execSdInit (s : State) : Outcome :=
  onCommand .sdInit s fun c =>
    match c.pos with
    | .decode => .next (sdInitDecode s)
    | .wake sent => .next (wakeStep sent s)
    | .init p => .next (initStep p s)
    | .read _ => .refused .noStep
    | .i2c => .refused .noStep
    | .dac _ => .refused .noStep

/-- The decode step of SD_READ: the checks, then the first transfer of `read_partial` (R465, R466). -/
def sdReadDecode (c : Command) (s : State) : State :=
  unlessSpiBusy s <|
    if outOfRange c.offset c.length then finish .ioOffsetOutOfRange s
    else if s.card.ready then
      commandReadStep c { addr := wireAddr s.card c.block, pos := .command (.frame 0) } s
    else finish .errNotReady s

/-- SD_READ (R465). -/
def execSdRead (s : State) : Outcome :=
  onCommand .sdRead s fun c =>
    match c.pos with
    | .decode => .next (sdReadDecode c s)
    | .read r => .next (commandReadStep c r s)
    | .wake _ => .refused .noStep
    | .init _ => .refused .noStep
    | .i2c => .refused .noStep
    | .dac _ => .refused .noStep

/-- The next step of the initialization's command whose wire-level instruction is `i`; only the command engine sends it
(R453, R620). -/
def onInitWire (i : Instr) (s : State) : Outcome :=
  match s.cur with
  | some c =>
    match c.pos with
    | .init p =>
      if taskReady s = true ∧ p.instr = i then .next (initStep p s) else .refused .noStep
    | .decode => .refused .noStep
    | .wake _ => .refused .noStep
    | .read _ => .refused .noStep
    | .i2c => .refused .noStep
    | .dac _ => .refused .noStep
  | none => .refused .noStep

/-- GO_IDLE_STATE (R311, R455). -/
def execGoIdleState (s : State) : Outcome := onInitWire .goIdleState s

/-- SEND_IF_COND (R311, R456). -/
def execSendIfCond (s : State) : Outcome := onInitWire .sendIfCond s

/-- APP_CMD (R311, R457). -/
def execAppCmd (s : State) : Outcome := onInitWire .appCmd s

/-- SEND_OP_COND (R311, R457). -/
def execSendOpCond (s : State) : Outcome := onInitWire .sendOpCond s

/-- READ_OCR (R311, R458). -/
def execReadOcr (s : State) : Outcome := onInitWire .readOcr s

/-- READ_SINGLE_BLOCK by the command engine (R466). -/
def commandReadBlock (addr : Word) (s : State) : Outcome :=
  match s.cur with
  | some c =>
    match c.pos with
    | .read r => if r.addr = addr then .next (commandReadStep c r s) else .refused .noStep
    | .decode => .refused .noStep
    | .wake _ => .refused .noStep
    | .init _ => .refused .noStep
    | .i2c => .refused .noStep
    | .dac _ => .refused .noStep
  | none => .refused .noStep

/-- READ_SINGLE_BLOCK by the producer (R548). -/
def producerReadBlock (addr : Word) (s : State) : Outcome :=
  match s.prod with
  | .filling h r => if r.addr = addr then .next (producerReadStep h r s) else .refused .noStep
  | .waiting => .refused .noStep

/-- READ_SINGLE_BLOCK (R311, R466): the agent whose turn it is sends it, the command engine for SD_READ or the producer for
a refill. -/
def execReadSingleBlock (addr : Word) (s : State) : Outcome :=
  if taskReady s then
    match s.turn with
    | .cmd => commandReadBlock addr s
    | .prod => producerReadBlock addr s
    | .host _ => .refused .noStep
    | .cons => .refused .noStep
    | .tickSrc => .refused .noStep
  else .refused .noStep

end Sys2Proof.Machine
end

