-- ==== Sys2Proof/Machine/Spi.lean ====
section
/-! DEFINITION. The SPI commands (41_spi.md). All are of the SPI class (R404) and do their whole work in the decode step. -/

namespace Sys2Proof.Machine

/-- SPI_XFER (R423). -/
def execSpiXfer (data8 : Byte) (s : State) : Outcome :=
  inDecodeStep (.spiXfer data8) s fun _ =>
    unlessSpiBusy s (finish .ok { xfer data8 s with rx := cardAnswer s })

/-- SPI_SEND (R424): `RX` is not written. -/
def execSpiSend (data8 : Byte) (s : State) : Outcome :=
  inDecodeStep (.spiSend data8) s fun _ => unlessSpiBusy s (finish .ok (xfer data8 s))

/-- SPI_RECV (R425). -/
def execSpiRecv (s : State) : Outcome :=
  inDecodeStep .spiRecv s fun _ => unlessSpiBusy s (finish .ok { recv s with rx := cardAnswer s })

/-- SPI_SETDIV (R428): the divisor is the snapshot's. -/
def execSpiSetDiv (s : State) : Outcome :=
  inDecodeStep .spiSetDiv s fun c =>
    unlessSpiBusy s (finish .ok { s with div := nearestOf s.cfg.supportedDivisors c.divreq })

/-- SPI_SELECT (R426). -/
def execSpiSelect (s : State) : Outcome :=
  inDecodeStep .spiSelect s fun _ => unlessSpiBusy s (finish .ok (selectCard true s))

/-- SPI_DESELECT (R427). -/
def execSpiDeselect (s : State) : Outcome :=
  inDecodeStep .spiDeselect s fun _ => unlessSpiBusy s (finish .ok (selectCard false s))

end Sys2Proof.Machine
end

