-- ==== Sys2Proof/Machine/Dispatch.lean ====
section
/-! DEFINITION. Which meaning each instruction has: one arm per constructor. A meaning is ONE step of its operation (R21):
the step that the operation's agent takes next. -/

namespace Sys2Proof.Machine

def exec (i : Instr) (s : State) : Host.Outcome State Fault Refusal :=
  match i with
  | .nop => Sys2Proof.Machine.execNop s
  | .spiXfer data8 => Sys2Proof.Machine.execSpiXfer data8 s
  | .spiSend data8 => Sys2Proof.Machine.execSpiSend data8 s
  | .spiRecv => Sys2Proof.Machine.execSpiRecv s
  | .spiSetDiv => Sys2Proof.Machine.execSpiSetDiv s
  | .spiSelect => Sys2Proof.Machine.execSpiSelect s
  | .spiDeselect => Sys2Proof.Machine.execSpiDeselect s
  | .sdInit => Sys2Proof.Machine.execSdInit s
  | .sdRead => Sys2Proof.Machine.execSdRead s
  | .i2cStart => Sys2Proof.Machine.execI2cStart s
  | .i2cWrite data8 => Sys2Proof.Machine.execI2cWrite data8 s
  | .i2cStop => Sys2Proof.Machine.execI2cStop s
  | .dacWrite data8 => Sys2Proof.Machine.execDacWrite data8 s
  | .pbStart => Sys2Proof.Machine.execPbStart s
  | .pbStop => Sys2Proof.Machine.execPbStop s
  | .clrFlags => Sys2Proof.Machine.execClrFlags s
  | .tick => Sys2Proof.Machine.execTick s
  | .refill => Sys2Proof.Machine.execRefill s
  | .goIdleState => Sys2Proof.Machine.execGoIdleState s
  | .sendIfCond => Sys2Proof.Machine.execSendIfCond s
  | .appCmd => Sys2Proof.Machine.execAppCmd s
  | .sendOpCond => Sys2Proof.Machine.execSendOpCond s
  | .readOcr => Sys2Proof.Machine.execReadOcr s
  | .readSingleBlock addr => Sys2Proof.Machine.execReadSingleBlock addr s

end Sys2Proof.Machine
end

