-- ==== Sys2Proof/Machine/Fetch.lean ====
section
/-! DEFINITION. Which instruction an agent's next step runs, and how a program's instruction is placed so that the next step
runs it. The block fetches nothing (R235): a command comes from the `CMD` write alone and is held in `CUR`. -/

namespace Sys2Proof.Machine

/-- The instruction that the command engine's next step runs: the SD command at wire level while one is under way, else the
command itself. -/
def Command.current (c : Command) : Except Reject Instr :=
  match c.pos with
  | .init p => .ok p.instr
  | .read r => .ok (.readSingleBlock r.addr)
  | .decode => c.instr
  | .wake _ => c.instr
  | .i2c => c.instr
  | .dac _ => c.instr

/-- The instruction that the producer's next step runs. -/
def Producer.current : Producer → Instr
  | .waiting => .refill
  | .filling _ r => .readSingleBlock r.addr

/-- The position at which the initialization is about to send the frame of a wire-level instruction; `none` for every other
instruction. -/
def initFrameStart : Instr → Option InitCommand
  | .goIdleState => some .goIdle
  | .sendIfCond => some .ifCond
  | .appCmd => some (.appCmd 0)
  | .sendOpCond => some (.opCond 0)
  | .readOcr => some .readOcr
  | .readSingleBlock _ => none
  | .nop => none
  | .spiXfer _ => none
  | .spiSend _ => none
  | .spiRecv => none
  | .spiSetDiv => none
  | .spiSelect => none
  | .spiDeselect => none
  | .sdInit => none
  | .sdRead => none
  | .i2cStart => none
  | .i2cWrite _ => none
  | .i2cStop => none
  | .dacWrite _ => none
  | .pbStart => none
  | .pbStop => none
  | .clrFlags => none
  | .tick => none
  | .refill => none

/-- The next step is one of the command engine, which holds the command `c` and is not preempted (R620). -/
def withCommand (c : Command) (s : State) : State :=
  State.withTurn { s with
    busy := true
    cur := some c
    inHandler := false
    tickLatch := s.tickLatch && !s.playing } .cmd

/-- A command is placed as an accepted one (R400), a frame as the next frame of the procedure that sends it (R453, R466). -/
def placeCode (code : Code) (s : State) : State :=
  match code with
  | .command w => withCommand (accepted w s) s
  | .frame f =>
    match decodeFrame f with
    | .error _ => s
    | .ok i =>
      match initFrameStart i with
      | some c => withCommand { accepted (commandWord 0 0x10) s with pos := .init (.command c (.frame 0)) } s
      | none =>
        withCommand { accepted (commandWord 0 0x11) s with
          pos := .read { addr := frameArg f, pos := .command (.frame 0) } } s

end Sys2Proof.Machine
end

