-- ==== Sys2Proof/Machine/Registers.lean ====
section
/-! DEFINITION. The host's register space (20_memory.md): the register map (R210), reads (R205), writes (R206), the access
the block does not take (R207). -/

namespace Sys2Proof.Machine

/-- The value read at offset `off` (R205, R208, R210 to R213); a pure function of the state. -/
def readRegister (s : State) (off : Nat) : Word :=
  if off = 0x004 then s.block
  else if off = 0x008 then s.xfer
  else if off = 0x00C then s.divreq.setWidth 32
  else if off = 0x010 then statusWord s
  else if off = 0x014 then s.div.setWidth 32
  else if off = 0x018 then s.playIndex.setWidth 32
  else if off = 0x01C then s.cursor
  else if off = 0x020 then BitVec.ofNat 32 (min s.sem 65535)
  else if off = 0x024 then s.rerr.code.setWidth 32
  else if 0x200 ≤ off ∧ off < 0x400 then readWordLE s.scratch (off - 0x200)
  else if 0x400 ≤ off ∧ off < 0x590 then readWordLE s.ring (off - 0x400)
  else 0

/-- The effect of writing `v` at offset `off` (R206, R208, R210): only `CMD` and the three argument registers are written. -/
def writeRegister (off : Nat) (v : Word) (s : State) : State :=
  if off = 0x000 then issue v s
  else if off = 0x004 then { s with block := v }
  else if off = 0x008 then { s with xfer := v }
  else if off = 0x00C then { s with divreq := v.extractLsb' 0 16 }
  else s

/-- The effect of an access the block takes (R205, R206). -/
def takenAccess (a : HostAccess) (s : State) : State :=
  match a with
  | .read off _ => { s with env := { s.env with readData := readRegister s off } }
  | .write off _ v => writeRegister off v s

/-- A step of the host (R205 to R207): a faulted host has none, and an access the block does not take is recorded. -/
def hostStep (a : HostAccess) (s : State) : State :=
  if s.accessFault.isSome then s
  else if a.wf then takenAccess a s
  else { s with accessFault := some a.off }

end Sys2Proof.Machine
end

