-- ==== Sys2Proof/Machine/Agents.lean ====
section
/-! DEFINITION. The five agents of R20: what the next step of each comes to, and when it has one (R22, R620, R621). -/

namespace Sys2Proof.Machine

/-- The host (R205 to R207); one that has faulted has no further step. -/
def hostAgent (a : HostAccess) (s : State) : Outcome :=
  if s.accessFault.isSome then .refused .noStep else .next (hostStep a s)

/-- The command engine (R103, R402): the instruction its command comes to, or the end of an illegal word. -/
def commandAgent (s : State) : Outcome :=
  match s.cur with
  | none => .refused .noStep
  | some c =>
    match c.current with
    | .ok i => exec i s
    | .error _ => illegalCommand c s

/-- The producer (R546 to R549). -/
def producerAgent (s : State) : Outcome := exec s.prod.current s

/-- The consumer (R536 to R538). -/
def consumerAgent (s : State) : Outcome := exec .tick s

/-- The tick source (R535). -/
def tickSourceAgent (s : State) : Outcome := if s.playing then .next (tickSource s) else .refused .noStep

/-- The step of the agent whose turn it is; refused when that agent has none. -/
def agentStep (s : State) : Outcome :=
  match s.turn with
  | .host a => hostAgent a s
  | .tickSrc => tickSourceAgent s
  | .cmd => commandAgent s
  | .prod => producerAgent s
  | .cons => consumerAgent s

/-- A step is taken. -/
def takesStep : Outcome → Bool
  | .next _ => true
  | .fault _ => true
  | .refused _ => false

/-- The agent `a` has an enabled step in `s` (R22, R620, R621). -/
def enabled (a : Turn) (s : State) : Bool := takesStep (agentStep (s.withTurn a))

end Sys2Proof.Machine
end

