-- ==== Sys2Proof/Machine/Step.lean ====
section
/-! DEFINITION. One step of the machine: one step of the agent whose turn it is (R20, R21, R621). -/

namespace Sys2Proof.Machine

def step (s : State) : Host.Outcome State Fault Refusal := settle s (agentStep s)

/-- `s` with the instruction whose bits are `w` placed so that the very next step runs it. -/
def State.withFetchWord (s : State) (nbits w : Nat) : State :=
  match tableCode nbits w with
  | some code => placeCode code s
  | none => s

end Sys2Proof.Machine
end

