-- ==== Sys2Proof/Safety.lean ====
section
/-! DEFINITION. What claims speak of: the runs of one operation, the samples the DAC receives (R23, R505), the properties of
states and runs that the spec names (R554, R556), and the invariant of the block. -/

namespace Sys2Proof.Safety

open Sys2Proof.Machine

/-! ### Hypotheses on the state -/

/-- A host command with opcode `opc` and no reserved bit set has been accepted, its decode step is next, and the command engine
is not preempted (R400, R402, R620). -/
def Accepted (opc : Byte) (c : Command) (s : State) : Prop :=
  s.cur = some c ∧ c.opc = opc ∧ c.reserved = 0 ∧ c.pos = .decode ∧ taskReady s = true

/-- The command engine is at position `p` of the command `c` with opcode `opc`, and is not preempted. -/
def UnderWay (opc : Byte) (p : CmdPos) (c : Command) (s : State) : Prop :=
  s.cur = some c ∧ c.opc = opc ∧ c.reserved = 0 ∧ c.pos = p ∧ taskReady s = true

/-- The I2C oracle lets the next `n` primitives complete (R500). -/
def I2cCompletes (n : Nat) (s : State) : Prop :=
  n ≤ s.env.i2cIn.length ∧ ∀ a ∈ s.env.i2cIn.take n, a ≠ .never

/-- The SPI class of commands is not refused (R404). -/
def SpiFree (s : State) : Prop := s.playing = false ∧ s.prod = .waiting ∧ s.sem = 0

/-! ### What the spec's tables say, for claims to compare with -/

/-- The environment after the card has answered one more transfer. -/
def cardTaken (s : State) : Env :=
  { s.env with cardIn := s.env.cardIn.tail, cardCount := s.env.cardCount + 1 }

/-- The environment after the I2C oracle has let one more primitive complete. -/
def i2cTaken (s : State) : Env :=
  { s.env with i2cIn := s.env.i2cIn.tail, i2cCount := s.env.i2cCount + 1 }

/-- The number of a result code, as the table of R600 lists them. -/
def resultNumber : ResultCode → Nat
  | .ok => 0
  | .initNotResponding => 1
  | .initUnsupportedCard => 2
  | .initVoltageCheckFailed => 3
  | .initTimeout => 4
  | .ioOffsetOutOfRange => 5
  | .ioCommandRejected => 6
  | .ioDataTokenTimeout => 7
  | .errNotReady => 8
  | .errBusy => 9
  | .errIllegal => 10
  | .errState => 11

/-- The number of a card state in `STATUS`, as the table of R211 lists them. -/
def cardNumber : Card → Nat
  | .uninitialized => 0
  | .idleStandard => 1
  | .idleHighCapacity => 2
  | .failed => 3

/-- The number of a pending refill in `STATUS`, as the table of R211 lists them. -/
def pendingNumber : Option Half → Nat
  | none => 0
  | some .lower => 1
  | some .upper => 2

/-- The frame bytes of the five initialization commands, as the table of R311 lists them. -/
def initFrameBytes : InitCommand → List Byte
  | .goIdle => [0x40, 0x00, 0x00, 0x00, 0x00, 0x95]
  | .ifCond => [0x48, 0x00, 0x00, 0x01, 0xAA, 0x87]
  | .appCmd _ => [0x77, 0x00, 0x00, 0x00, 0x00, 0xFF]
  | .opCond _ => [0x69, 0x40, 0x00, 0x00, 0x00, 0xFF]
  | .readOcr => [0x7A, 0x00, 0x00, 0x00, 0x00, 0xFF]

/-- The frame bytes of READ_SINGLE_BLOCK with argument `a3||a2||a1||a0` (R311). -/
def readFrameBytes (addr : Word) : List Byte :=
  [0x51, addr.extractLsb' 24 8, addr.extractLsb' 16 8, addr.extractLsb' 8 8, addr.extractLsb' 0 8, 0xFF]

/-- The bytes received by an R1 poll that gets `misses` first and then the response `r` (R451). -/
def pollAnswers (misses : List Byte) (r : Byte) : List Byte := misses ++ [r]

/-- `misses` are bytes of a poll that no response is among, few enough that the poll goes on after them (R451). -/
def PollGoesOn (p : Params) (misses : List Byte) : Prop :=
  misses.length < p.r1PollLimit ∧ ∀ b ∈ misses, b.getLsbD 7 = true

/-- `misses` are bytes of a token poll that no token is among, few enough that the poll goes on after them (R466, R470). -/
def TokenPollGoesOn (p : Params) (misses : List Byte) : Prop :=
  misses.length < p.tokenPollLimit ∧ ∀ b ∈ misses, b ≠ 0xFE

/-- What the card answers in one successful read (R314, R466): to the six frame bytes, to the R1 poll, to the token poll, then
the 512 bytes of the block and the two check bytes. -/
def readAnswers (frame r1Misses tokenMisses block check : List Byte) : List Byte :=
  frame ++ pollAnswers r1Misses 0x00 ++ (tokenMisses ++ [0xFE]) ++ block ++ check

/-- The events of one read that is over: the selection, the six frame bytes with the answers to them, one 0xFF for every byte
received after them, the deselection (R310, R421, R466). -/
def readEvents (addr : Word) (frame received : List Byte) : List Event :=
  .cs true :: (List.zipWith (Event.spi true) (readFrameBytes addr) frame ++ received.map (Event.spi true 0xFF) ++ [.cs false])

/-- The receiving steps after which a read goes on, from a position to the next, when the byte received is `b` (R451, R466). -/
inductive ReadGoesOn (p : Params) (b : Byte) : ReadPos → ReadPos → Prop
  | noResponse (n : Nat) : b.getLsbD 7 = true → n + 1 < p.r1PollLimit →
      ReadGoesOn p b (.command (.poll n)) (.command (.poll (n + 1)))
  | response (n : Nat) : b = 0x00 → ReadGoesOn p b (.command (.poll n)) (.token 0)
  | noToken (n : Nat) : b ≠ 0xFE → n + 1 < p.tokenPollLimit → ReadGoesOn p b (.token n) (.token (n + 1))
  | token (n : Nat) : b = 0xFE → ReadGoesOn p b (.token n) (.data 0)
  | data (k : Nat) (h : k + 1 < 512) : ReadGoesOn p b (.data ⟨k, Nat.lt_of_succ_lt h⟩) (.data ⟨k + 1, h⟩)
  | lastData : ReadGoesOn p b (.data 511) (.check 0)
  | firstCheck : ReadGoesOn p b (.check 0) (.check 1)

/-- The index of the data byte that a read receives next. -/
def dataIndex : ReadPos → Option Nat
  | .data k => some k.val
  | .command _ => none
  | .token _ => none
  | .check _ => none

/-! ### Runs of one operation -/

/-- `n` steps of one operation, with no step of another agent between them. -/
def runInstr (i : Instr) : Nat → State → Outcome
  | 0, s => .next s
  | n + 1, s =>
    match exec i s with
    | .next t => runInstr i n t
    | .fault f => .fault f
    | .refused r => .refused r

/-- `n` ticks, each one tick of the source and the whole handler (the schedule marker `@tick` of R330). -/
def runTicks : Nat → State → Outcome
  | 0, s => .next s
  | n + 1, s =>
    match runInstr .tick 7 (tickSource s) with
    | .next t => runTicks n t
    | .fault f => .fault f
    | .refused r => .refused r

/-! ### Runs of the whole machine -/

/-- A run: every state is what the step makes of the one before it (R21, R621). -/
def IsRun (σ : Nat → State) : Prop := ∀ n, step (σ n) = .next (σ (n + 1))

/-- Weak fairness of the agent `a` (R22, D49): when it has an enabled step from some point on, it takes one after that point. -/
def WeaklyFair (a : Turn) (σ : Nat → State) : Prop :=
  ∀ n, (∀ k, n ≤ k → enabled a (σ k) = true) → ∃ k, n ≤ k ∧ (σ k).turn = a

/-- A run under the fairness that R22 assumes. `TICKSRC` has an enabled step exactly while `PLAYING`. -/
structure FairRun (σ : Nat → State) : Prop where
  run : IsRun σ
  cmd : WeaklyFair .cmd σ
  prod : WeaklyFair .prod σ
  cons : WeaklyFair .cons σ
  tickSrc : WeaklyFair .tickSrc σ

/-! ### What the history shows -/

/-- The sample of a finished I2C transaction that is a DAC frame (R320, R505). -/
def sampleOf (p : Params) (bytes : Option (List Byte)) : List Byte :=
  match bytes with
  | some [a, c, v, l] => if a = addressByte p.dacAddr ∧ c = p.dacCmd ∧ l = p.dacLow then [v] else []
  | _ => []

/-- The emitted samples of a history, with the bytes of the transaction that is open at its start (R23, R505). -/
def emittedFrom (p : Params) : Option (List Byte) → List Event → List Byte
  | _, [] => []
  | _, .i2cStart :: es => emittedFrom p (some []) es
  | acc, .i2cByte b _ :: es => emittedFrom p (acc.map (· ++ [b])) es
  | acc, .i2cStop :: es => sampleOf p acc ++ emittedFrom p none es
  | acc, .spi _ _ _ :: es => emittedFrom p acc es
  | acc, .cs _ :: es => emittedFrom p acc es
  | acc, .signal _ :: es => emittedFrom p acc es
  | acc, .hazard _ :: es => emittedFrom p acc es

/-- The samples the DAC has received (R23). -/
def emitted (s : State) : List Byte := emittedFrom s.cfg none s.history

/-- The refill signals of a history, in order (R23). -/
def signals (es : List Event) : List Half :=
  es.filterMap fun e => match e with
    | .signal h => some h
    | _ => none

/-- The signals of `n` ticks that begin at `PLAY_INDEX = i0` (R541). -/
def expectedSignals (i0 n : Nat) : List Half :=
  (List.range n).filterMap fun t =>
    if (i0 + t + 1) % 400 = 200 then some .lower
    else if (i0 + t + 1) % 400 = 0 then some .upper
    else none

/-- An event of a bus: an SPI transfer or a completed I2C primitive. -/
def busEvent : Event → Bool
  | .spi _ _ _ => true
  | .i2cStart => true
  | .i2cByte _ _ => true
  | .i2cStop => true
  | .cs _ => false
  | .signal _ => false
  | .hazard _ => false

/-- An event without the ACK bit (R500). -/
def forgetAck : Event → Event
  | .i2cByte b _ => .i2cByte b true
  | .spi cs tx rx => .spi cs tx rx
  | .cs v => .cs v
  | .i2cStart => .i2cStart
  | .i2cStop => .i2cStop
  | .signal h => .signal h
  | .hazard k => .hazard k

/-! ### Properties that the spec names -/

/-- No `AccessFault` has been recorded (R602). -/
def NoAccessFault (s : State) : Prop := s.accessFault = none

/-- Up to `s` neither `UNDERRUN` nor `SIG_OVERRUN` has been set (R554, R720). The history keeps a hazard event for each
time, which CLRFLAGS does not clear. -/
def RespectsRealTime (s : State) : Prop :=
  Event.hazard .underrun ∉ s.history ∧ Event.hazard .signalOverrun ∉ s.history

/-- The run respects the real-time bound (R554). -/
def RunRespectsRealTime (σ : Nat → State) : Prop := ∀ n, RespectsRealTime (σ n)

/-- Two states that differ at most in `DIV` and in the value the host last read. -/
def SameButDivisor (s s' : State) : Prop := s' = { s with div := s'.div, env := { s.env with readData := s'.env.readData } }

/-- A quiescent state (R556). -/
def Quiescent (s : State) : Prop :=
  s.playing = false ∧ s.busy = false ∧ s.prod = .waiting ∧ s.sem = 0 ∧ s.inHandler = false ∧ s.tickLatch = false

/-! ### The invariant -/

/-- What the sequencer position of the command engine says about the rest of the state: SD_INIT and SD_READ own the SPI bus
with a card in the right state (R404, R453, R465), the I2C commands own the I2C bus (R404, R505). -/
def CommandInv (s : State) : CmdPos → Prop
  | .decode => True
  | .wake _ => spiBusy s = false ∧ s.card = .uninitialized
  | .init _ => spiBusy s = false ∧ s.card = .uninitialized
  | .read _ => spiBusy s = false ∧ s.card.ready = true
  | .i2c => s.playing = false
  | .dac k => s.playing = false ∧ (s.i2cOpen = true ↔ k ≠ 0)

/-- The invariant of the block: every element has a legal value (10_state.md), the owners of the two buses never overlap
(R125, R404, R620), and a hazard flag that is set has its event in the history (R535, R551, R552). -/
structure Inv (s : State) : Prop where
  params : s.cfg.wf = true
  ringForm : memoryWf s.ring = true ∧ memoryBelow ringSize s.ring = true
  scratchForm : memoryWf s.scratch = true ∧ memoryBelow blockSize s.scratch = true
  busy : s.busy = s.cur.isSome
  div : s.div ∈ s.cfg.supportedDivisors
  playIndex : s.playIndex.toNat < ringSize
  cursor : s.cursor.toNat < s.cfg.totalBlocks
  pendingSignalled : s.pending ≠ none → 0 < s.sem
  pendingSide : ∀ h, s.pending = some h → halfOf s.playIndex.toNat ≠ h
  cardReady : s.playing = true ∨ 0 < s.sem ∨ s.prod ≠ .waiting → s.card.ready = true
  latch : s.tickLatch = true → s.playing = true
  handler : s.inHandler = true → s.playing = true ∧ s.hpos.val < 6 ∧ (s.i2cOpen = true ↔ s.hpos ≠ 0)
  i2cFree : s.playing = true → s.inHandler = false → s.i2cOpen = false
  command : ∀ c, s.cur = some c → CommandInv s c.pos
  rerr : s.refillErr = false → s.rerr = .ok
  underrunShown : s.underrun = true → Event.hazard .underrun ∈ s.history
  sigOverrunShown : s.sigOverrun = true → Event.hazard .signalOverrun ∈ s.history
  tickLostShown : s.tickLost = true → Event.hazard .tickLost ∈ s.history

end Sys2Proof.Safety
end

