-- ==== Sys2Proof/Certificates/Slice0/Obligations.lean ====
section
/-! DEFINITION. The statements for the provers, family by family in the order of spec/. Each docstring names the rules a
statement formalises. A next state is written out as the state before with the fields that change, so that every other
field, both memories among them, is claimed to stay as it was. -/

open Sys2Proof Sys2Proof.Machine Sys2Proof.Safety

/-! ### Encodings (30_encoding.md) -/

/-- R300, R301, R303, R310, R311: every operation that has an encoding is read back from it, with every operand. -/
def Obligations.DecodeOfEncodeIsIdentity : Prop :=
  ∀ i : Instr, i.wf = true → ∃ code, encode i = some code ∧ decode code = .ok i

/-- R301 (mask 0xFFFF00FF), R311: what the decoder accepts, the encoder writes back, up to the `DATA8` bits that the command
ignores. -/
def Obligations.EncodeOfDecodeKeepsTheWord : Prop :=
  (∀ w i, decodeCommand w = .ok i →
    ∃ w', encode i = some (.command w') ∧ w' &&& 0xFFFF00FF = w &&& 0xFFFF00FF ∧ decodeCommand w' = .ok i) ∧
  (∀ f i, decodeFrame f = .ok i → encode i = some (.frame f))

/-- R405: which words are illegal, and that such a word finishes in its decode step with no other effect. -/
def Obligations.IllegalWordsEndInTheDecodeStep : Prop :=
  (∀ w : Word, (∃ i, decodeCommand w = .ok i) ↔
    (w.extractLsb' 16 16 = 0 ∧
      (w.extractLsb' 0 8).toNat ∈
        [0x00, 0x01, 0x02, 0x03, 0x04, 0x05, 0x06, 0x10, 0x11, 0x20, 0x21, 0x22, 0x23, 0x30, 0x31, 0x3F])) ∧
  (∀ (s : State) (c : Command) (w : Word),
    s.turn = .cmd → s.cur = some c → c.pos = .decode → taskReady s = true →
    c.opc = w.extractLsb' 0 8 → c.data8 = w.extractLsb' 8 8 → c.reserved = w.extractLsb' 16 16 →
    (¬ ∃ i, decodeCommand w = .ok i) →
    step s = .next ({ s with result := .errIllegal, busy := false, cur := none } : State).advance)

/-- R300, R301, R311: words and frames of the spec's tables. -/
def Obligations.TableWordsDecode : Prop :=
  decodeCommand 0x00000000 = .ok .nop ∧ decodeCommand 0x0000FF00 = .ok .nop ∧
  decodeCommand 0x00004001 = .ok (.spiXfer 0x40) ∧ decodeCommand 0x0000AB03 = .ok .spiRecv ∧
  decodeCommand 0x00000011 = .ok .sdRead ∧ decodeCommand 0x0000C021 = .ok (.i2cWrite 0xC0) ∧
  decodeCommand 0x00000030 = .ok .pbStart ∧ decodeCommand 0x00010000 = .error .reservedBits ∧
  decodeCommand 0x80000031 = .error .reservedBits ∧ decodeCommand 0x00000007 = .error .reservedOpcode ∧
  decodeFrame 0x48000001AA87 = .ok .sendIfCond ∧ decodeFrame 0x510000C800FF = .ok (.readSingleBlock 0x0000C800)

/-! ### The step (00_scope.md R20, R21) -/

/-- R20, R21, R103, R117: the step is that of the agent whose turn it is, on the instruction its sequencer is at; around it only
the turn passes. How the schedule and the sequencer pick the instruction is the model's choice (log entries 3 and 9). -/
def Obligations.StepRunsTheInstructionUnderWay : Prop :=
  ∀ s : State,
    (∀ c i, s.turn = .cmd → s.cur = some c → c.current = .ok i → step s = settle s (exec i s)) ∧
    (s.turn = .cmd → s.cur = none → step s = .next s.advance) ∧
    (s.turn = .prod → step s = settle s (exec s.prod.current s)) ∧
    (s.turn = .cons → step s = settle s (exec .tick s)) ∧
    (∀ a, s.turn = .host a → step s = .next (hostStep a s).advance) ∧
    (s.turn = .tickSrc → step s = .next (tickSource s).advance) ∧
    (∀ c : Command, c.pos = .decode → c.current = decodeFields c.opc c.data8 c.reserved) ∧
    (∀ t, settle s (.next t) = .next t.advance) ∧
    settle s (.refused .noStep) = .next s.advance ∧
    s.advance = { s with env := { s.env with sched := s.env.sched.tail, stepCount := s.env.stepCount + 1 } }

/-- R400, R402, R450: an instruction of the table, placed in any state, is run by the very next step, and completes it. Where
an instruction is placed is the model's choice (log entry 12). -/
def Obligations.PlacedInstructionRunsNext : Prop :=
  ∀ (s : State) (nbits w : Nat) (i : Instr), decodeTableWord nbits w = some i →
    ∃ t, exec i (s.withFetchWord nbits w) = .next t ∧ step (s.withFetchWord nbits w) = .next t.advance

/-! ### Reset (70_reset_and_hazards.md) -/

/-- R700: every element of the spec's table, and the register values that follow from it. HSAMPLE and the frame position are
not claimed: the rule calls them meaningless. -/
def Obligations.ResetLeavesTheTableOfValues : Prop :=
  State.reset.busy = false ∧ State.reset.cur = none ∧ State.reset.result.code = 0 ∧ State.reset.rx = 0x00 ∧
  State.reset.block = 0 ∧ State.reset.xfer = 0 ∧ State.reset.divreq = 0 ∧ State.reset.cs = false ∧
  State.reset.div = nearestOf State.reset.cfg.supportedDivisors State.reset.cfg.slowDivisor ∧
  State.reset.card = .uninitialized ∧ State.reset.i2cOpen = false ∧ State.reset.playing = false ∧
  State.reset.tickLatch = false ∧ State.reset.inHandler = false ∧ State.reset.playIndex = 0 ∧
  State.reset.pending = none ∧ State.reset.sem = 0 ∧ State.reset.prod = .waiting ∧ State.reset.cursor = 0 ∧
  State.reset.underrun = false ∧ State.reset.sigOverrun = false ∧ State.reset.tickLost = false ∧
  State.reset.cmdLost = false ∧ State.reset.refillErr = false ∧ State.reset.rerr.code = 0 ∧
  (∀ i, readByte State.reset.ring i = 0x00) ∧ (∀ i, readByte State.reset.scratch i = 0x00) ∧
  State.reset.history = [] ∧ State.reset.accessFault = none ∧
  statusWord State.reset = 0x00000000 ∧
  (∀ off, off ≠ 0x014 → readRegister State.reset off = 0) ∧
  readRegister State.reset 0x014 =
    (nearestOf State.reset.cfg.supportedDivisors State.reset.cfg.slowDivisor).setWidth 32

/-- R702, R556: the reset state is quiescent, and in a quiescent state without a command no agent but the host has an enabled
step, whatever the devices answer and the schedule chooses. -/
def Obligations.QuiescentStateWaitsForTheHost : Prop :=
  Quiescent State.reset ∧ State.reset.cur = none ∧
  (∀ s : State, Quiescent s → s.cur = none →
    enabled .cmd s = false ∧ enabled .prod s = false ∧ enabled .cons s = false ∧ enabled .tickSrc s = false) ∧
  (∀ s : State, Quiescent s → s.cur = none → (∀ a, s.turn ≠ .host a) → step s = .next s.advance) ∧
  (∀ (s t : State) (a : HostAccess), Quiescent s → s.cur = none → s.turn = .host a →
    (∀ w, a ≠ .write 0x000 4 w) → step s = .next t → Quiescent t ∧ t.cur = none)

/-! ### Invariants -/

/-- 10_state.md, R404, R541: the invariant holds after reset. -/
def Obligations.InvariantHoldsAtReset : Prop := Inv State.reset

/-- 10_state.md, R109, R114, R115, R118, R404, R541, R620: every step of every agent keeps the invariant. -/
def Obligations.EveryStepKeepsTheInvariant : Prop :=
  ∀ s t : State, Inv s → step s = .next t → Inv t

/-- R120, R121: every step keeps the canonical form of both memories, in every state. The form is the model's. -/
def Obligations.EveryStepKeepsTheMemoryForm : Prop :=
  ∀ s t : State, memoryWf s.ring = true → memoryWf s.scratch = true → step s = .next t →
    memoryWf t.ring = true ∧ memoryWf t.scratch = true

/-- R114: a step never stops the machine while the invariant holds, and nothing stops it but a handler entry at an index that
the ring does not have. The fault is the model's choice (log entry 8). -/
def Obligations.InvariantKeepsTheMachineRunning : Prop :=
  (∀ s : State, Inv s → ∃ t, step s = .next t) ∧
  (∀ (s : State) (f : Fault), step s = .fault f → f = .ringIndex ∧ ringSize ≤ s.playIndex.toNat) ∧
  (∀ (s : State) (r : Refusal), step s ≠ .refused r)

/-- R109: the transition set of `CARD`. -/
def Obligations.CardLeavesUninitializedOnly : Prop :=
  ∀ s t : State, Inv s → step s = .next t →
    t.card = s.card ∨ (s.card = .uninitialized ∧ t.card ≠ .uninitialized)

/-- R125: which agents write which element. -/
def Obligations.EachElementHasItsWriters : Prop :=
  ∀ s t : State, step s = .next t →
    (s.turn ≠ .cmd →
      t.result = s.result ∧ t.rx = s.rx ∧ t.div = s.div ∧ t.card = s.card ∧ t.playing = s.playing ∧
        t.scratch = s.scratch) ∧
    ((∀ a, s.turn ≠ .host a) → t.block = s.block ∧ t.xfer = s.xfer ∧ t.divreq = s.divreq ∧ t.accessFault = s.accessFault) ∧
    (s.turn ≠ .cmd → (∀ a, s.turn ≠ .host a) → t.busy = s.busy ∧ t.cur = s.cur ∧ t.cmdLost = s.cmdLost) ∧
    (s.turn ≠ .cmd → s.turn ≠ .prod → t.cs = s.cs ∧ t.refillErr = s.refillErr ∧ t.rerr = s.rerr) ∧
    (s.turn ≠ .cmd → s.turn ≠ .cons → t.i2cOpen = s.i2cOpen ∧ t.underrun = s.underrun ∧ t.sigOverrun = s.sigOverrun) ∧
    (s.turn ≠ .cmd → s.turn ≠ .cons → s.turn ≠ .tickSrc → t.tickLatch = s.tickLatch) ∧
    (s.turn ≠ .cmd → s.turn ≠ .tickSrc → t.tickLost = s.tickLost) ∧
    (s.turn ≠ .cons → t.inHandler = s.inHandler ∧ t.hsample = s.hsample ∧ t.hpos = s.hpos ∧ t.playIndex = s.playIndex) ∧
    (s.turn ≠ .cons → s.turn ≠ .prod → t.pending = s.pending ∧ t.sem = s.sem) ∧
    (s.turn ≠ .prod → t.prod = s.prod ∧ t.cursor = s.cursor ∧ t.ring = s.ring) ∧
    t.cfg = s.cfg

/-- R119, R122: a sticky flag is cleared by CLRFLAGS only. R554: and no step, that of CLRFLAGS included, makes a run respect the
real-time bound again that has broken it. -/
def Obligations.StickyFlagsFallOnlyByClrflags : Prop :=
  ∀ s t : State, step s = .next t →
    (¬ RespectsRealTime s → ¬ RespectsRealTime t) ∧
    ((∃ c, s.turn = .cmd ∧ s.cur = some c ∧ c.pos = .decode ∧ c.instr = .ok .clrFlags) ∨
    ((s.underrun = true → t.underrun = true) ∧ (s.sigOverrun = true → t.sigOverrun = true) ∧
      (s.tickLost = true → t.tickLost = true) ∧ (s.cmdLost = true → t.cmdLost = true) ∧
      (s.refillErr = true → t.refillErr = true)))

/-- R21, R23: the history only grows, and by at most one bus event a step. R535, R551, R552: a hazard flag rises only with its
event, and with the event it is set. R554: so a run that respects the bound at its start respects it throughout exactly when
neither flag is ever set in it. -/
def Obligations.HistoryGrowsByOneBusActionAStep : Prop :=
  (∀ s t : State, step s = .next t →
    ∃ es : List Event, t.history = s.history ++ es ∧ (es.filter busEvent).length ≤ 1 ∧
      (s.underrun = false → t.underrun = true → .hazard .underrun ∈ es) ∧
      (.hazard .underrun ∈ es → t.underrun = true) ∧
      (s.sigOverrun = false → t.sigOverrun = true → .hazard .signalOverrun ∈ es) ∧
      (.hazard .signalOverrun ∈ es → t.sigOverrun = true) ∧
      (s.tickLost = false → t.tickLost = true → .hazard .tickLost ∈ es) ∧
      (.hazard .tickLost ∈ es → t.tickLost = true)) ∧
  (∀ σ : Nat → State, IsRun σ → RespectsRealTime (σ 0) → (σ 0).underrun = false → (σ 0).sigOverrun = false →
    (RunRespectsRealTime σ ↔ ∀ n, (σ n).underrun = false ∧ (σ n).sigOverrun = false))

/-! ### The register space (20_memory.md) -/

/-- R205, R208, R210, R212, R213, R600: a read gives the value of the map and changes nothing of the block. Where the value read is
kept is the model's choice (log entry 6). -/
def Obligations.HostReadsTheRegisterMap : Prop :=
  (∀ (s : State) (off : Nat), s.turn = .host (.read off 4) → off % 4 = 0 → off < 0x1000 → s.accessFault = none →
    step s = .next ({ s with env := { s.env with readData := readRegister s off } } : State).advance) ∧
  (∀ s : State,
    readRegister s 0x000 = 0 ∧ readRegister s 0x004 = s.block ∧ readRegister s 0x008 = s.xfer ∧
    readRegister s 0x00C = s.divreq.setWidth 32 ∧ readRegister s 0x010 = statusWord s ∧
    readRegister s 0x014 = s.div.setWidth 32 ∧ readRegister s 0x018 = s.playIndex.setWidth 32 ∧
    readRegister s 0x01C = s.cursor ∧ (readRegister s 0x020).toNat = min s.sem 65535 ∧
    (readRegister s 0x024).toNat = resultNumber s.rerr ∧
    (∀ k, k < 128 → readRegister s (0x200 + 4 * k) =
      readByte s.scratch (4 * k + 3) ++ readByte s.scratch (4 * k + 2) ++ readByte s.scratch (4 * k + 1) ++
        readByte s.scratch (4 * k)) ∧
    (∀ k, k < 100 → readRegister s (0x400 + 4 * k) =
      readByte s.ring (4 * k + 3) ++ readByte s.ring (4 * k + 2) ++ readByte s.ring (4 * k + 1) ++
        readByte s.ring (4 * k)) ∧
    (∀ off, 0x028 ≤ off → off < 0x200 → readRegister s off = 0) ∧
    (∀ off, 0x590 ≤ off → readRegister s off = 0))

/-- R206, R208: a write to an argument register sets its writable bits; a write anywhere else but to `CMD` changes nothing. -/
def Obligations.HostWritesTheArgumentRegisters : Prop :=
  ∀ (s : State) (off : Nat) (v : Word), s.turn = .host (.write off 4 v) → off % 4 = 0 → off < 0x1000 →
    s.accessFault = none →
    (off = 0x004 → step s = .next ({ s with block := v } : State).advance) ∧
    (off = 0x008 → step s = .next ({ s with xfer := v } : State).advance) ∧
    (off = 0x00C → step s = .next ({ s with divreq := v.extractLsb' 0 16 } : State).advance) ∧
    (off ≠ 0x000 → off ≠ 0x004 → off ≠ 0x008 → off ≠ 0x00C → step s = .next s.advance)

/-- R400, R401: a write to `CMD` when not busy accepts the command with its snapshot, and changes nothing else. -/
def Obligations.CommandIsAcceptedWithItsSnapshot : Prop :=
  ∀ (s : State) (w : Word), s.turn = .host (.write 0x000 4 w) → s.accessFault = none → s.busy = false →
    step s = .next ({ s with
      busy := true
      cur := some { opc := w.extractLsb' 0 8, data8 := w.extractLsb' 8 8, reserved := w.extractLsb' 16 16
                    block := s.block, xfer := s.xfer, divreq := s.divreq, pos := .decode } } : State).advance

/-- R408: a write to `CMD` while busy is lost. -/
def Obligations.CommandWhileBusyIsLost : Prop :=
  ∀ (s : State) (w : Word), s.turn = .host (.write 0x000 4 w) → s.accessFault = none → s.busy = true →
    step s = .next ({ s with cmdLost := true } : State).advance

/-- R207: an access the block does not take is recorded and changes nothing else; the record is never cleared, and the faulted
host has no further step. -/
def Obligations.RefusedAccessStopsTheHostForGood : Prop :=
  (∀ (s : State) (a : HostAccess), s.turn = .host a → s.accessFault = none →
    (a.size ≠ 4 ∨ a.off % 4 ≠ 0 ∨ 0x1000 ≤ a.off) →
    step s = .next ({ s with accessFault := some a.off } : State).advance) ∧
  (∀ (s t : State) (off : Nat), s.accessFault = some off → step s = .next t → t.accessFault = some off) ∧
  (∀ (s : State) (off : Nat) (a : HostAccess), s.accessFault = some off → s.turn = .host a → step s = .next s.advance)

/-- R211, R600: the fields of `STATUS`, with the numbers of the card states, the pending halves and the result codes. -/
def Obligations.StatusHoldsItsFields : Prop :=
  ∀ s : State,
    (statusWord s).getLsbD 0 = s.busy ∧
    ((statusWord s).extractLsb' 1 2).toNat = cardNumber s.card ∧
    (statusWord s).getLsbD 3 = s.playing ∧
    ((statusWord s).extractLsb' 4 2).toNat = pendingNumber s.pending ∧
    (statusWord s).getLsbD 6 = decide (s.prod ≠ .waiting) ∧
    (statusWord s).getLsbD 7 = s.cs ∧
    ((statusWord s).extractLsb' 8 4).toNat = resultNumber s.result ∧
    (statusWord s).getLsbD 12 = s.i2cOpen ∧
    (statusWord s).getLsbD 13 = s.inHandler ∧
    (statusWord s).getLsbD 14 = s.tickLatch ∧
    (statusWord s).getLsbD 15 = false ∧
    (statusWord s).extractLsb' 16 8 = s.rx ∧
    (statusWord s).getLsbD 24 = s.underrun ∧
    (statusWord s).getLsbD 25 = s.sigOverrun ∧
    (statusWord s).getLsbD 26 = s.cmdLost ∧
    (statusWord s).getLsbD 27 = s.tickLost ∧
    (statusWord s).getLsbD 28 = s.refillErr ∧
    (statusWord s).extractLsb' 29 3 = 0

/-! ### Dispatch, NOP and CLRFLAGS (40_command_dispatch.md) -/

/-- R406: NOP in every state of the block. -/
def Obligations.NopFinishesOk : Prop :=
  ∀ (s : State) (c : Command), Accepted 0x00 c s →
    c.instr = .ok .nop ∧ exec .nop s = .next { s with result := .ok, busy := false, cur := none }

/-- R407: CLRFLAGS clears the five sticky flags and `RERR`, and changes nothing else. -/
def Obligations.ClrflagsClearsTheFlags : Prop :=
  ∀ (s : State) (c : Command), Accepted 0x3F c s →
    c.instr = .ok .clrFlags ∧
    exec .clrFlags s = .next { s with
      underrun := false, sigOverrun := false, tickLost := false, cmdLost := false, refillErr := false, rerr := .ok
      result := .ok, busy := false, cur := none }

/-- R404: the commands of each class are refused with `ERR_BUSY`, and nothing else, exactly when the table says so. -/
def Obligations.ArbitrationRefusesByClass : Prop :=
  ∀ (s : State) (c : Command) (i : Instr), Accepted c.opc c s → c.instr = .ok i →
    (i = .nop ∨ i = .pbStop ∨ i = .clrFlags →
      ∃ t, exec i s = .next t ∧ (t.cur ≠ none ∨ t.result ≠ .errBusy)) ∧
    (i = .pbStart →
      (s.i2cOpen = true → exec i s = .next { s with result := .errBusy, busy := false, cur := none }) ∧
      (s.i2cOpen = false → ∃ t, exec i s = .next t ∧ t.result ≠ .errBusy)) ∧
    (i = .i2cStart ∨ (∃ d, i = .i2cWrite d) ∨ i = .i2cStop ∨ (∃ d, i = .dacWrite d) →
      (s.playing = true → exec i s = .next { s with result := .errBusy, busy := false, cur := none }) ∧
      (s.playing = false → ∃ t, exec i s = .next t ∧ (t.cur ≠ none ∨ t.result ≠ .errBusy))) ∧
    ((∃ d, i = .spiXfer d) ∨ (∃ d, i = .spiSend d) ∨ i = .spiRecv ∨ i = .spiSetDiv ∨ i = .spiSelect ∨ i = .spiDeselect ∨
        i = .sdInit ∨ i = .sdRead →
      (¬ SpiFree s → exec i s = .next { s with result := .errBusy, busy := false, cur := none }) ∧
      (SpiFree s → ∃ t, exec i s = .next t ∧ (t.cur ≠ none ∨ t.result ≠ .errBusy)))

/-! ### SPI (41_spi.md) -/

/-- R423: SPI_XFER. -/
def Obligations.SpiXferWritesRx : Prop :=
  ∀ (s : State) (c : Command), Accepted 0x01 c s → SpiFree s →
    c.instr = .ok (.spiXfer c.data8) ∧
    exec (.spiXfer c.data8) s = .next { s with
      rx := cardAnswer s
      history := s.history ++ [.spi s.cs c.data8 (cardAnswer s)], env := cardTaken s
      result := .ok, busy := false, cur := none }

/-- R424, R425: SPI_SEND loses the byte received; SPI_RECV sends 0xFF whatever `DATA8` is. -/
def Obligations.SpiSendAndRecv : Prop :=
  ∀ (s : State) (c : Command), SpiFree s →
    (Accepted 0x02 c s → c.instr = .ok (.spiSend c.data8) ∧
      exec (.spiSend c.data8) s = .next { s with
        history := s.history ++ [.spi s.cs c.data8 (cardAnswer s)], env := cardTaken s
        result := .ok, busy := false, cur := none }) ∧
    (Accepted 0x03 c s → c.instr = .ok .spiRecv ∧
      exec .spiRecv s = .next { s with
        rx := cardAnswer s
        history := s.history ++ [.spi s.cs 0xFF (cardAnswer s)], env := cardTaken s
        result := .ok, busy := false, cur := none })

/-- R426, R427: SPI_SELECT and SPI_DESELECT, with no transfer. -/
def Obligations.SpiSelectAndDeselect : Prop :=
  ∀ (s : State) (c : Command), SpiFree s →
    (Accepted 0x05 c s → c.instr = .ok .spiSelect ∧
      exec .spiSelect s = .next { s with
        cs := true, history := s.history ++ [.cs true], result := .ok, busy := false, cur := none }) ∧
    (Accepted 0x06 c s → c.instr = .ok .spiDeselect ∧
      exec .spiDeselect s = .next { s with
        cs := false, history := s.history ++ [.cs false], result := .ok, busy := false, cur := none })

/-- R428: SPI_SETDIV takes the divisor of the snapshot through the fallback. -/
def Obligations.SpiSetdivUsesTheFallback : Prop :=
  ∀ (s : State) (c : Command), Accepted 0x04 c s → SpiFree s →
    c.instr = .ok .spiSetDiv ∧
    exec .spiSetDiv s = .next { s with
      div := nearestOf s.cfg.supportedDivisors c.divreq, result := .ok, busy := false, cur := none }

/-- R422: the fallback is a member of the set, at least distance, and of two at equal distance the larger; a supported divisor
is its own. -/
def Obligations.NearestDivisorIsNearest : Prop :=
  ∀ (set : List Short) (d : Short), set ≠ [] →
    nearestOf set d ∈ set ∧ (d ∈ set → nearestOf set d = d) ∧
    ∀ x ∈ set,
      (((nearestOf set d).toNat : Int) - d.toNat).natAbs < ((x.toNat : Int) - d.toNat).natAbs ∨
      ((((nearestOf set d).toNat : Int) - d.toNat).natAbs = ((x.toNat : Int) - d.toNat).natAbs ∧
        x.toNat ≤ (nearestOf set d).toNat)

/-! ### SD initialization (42_sd.md) -/

/-- R453, R454, decode checks of R402: what the decode step of SD_INIT does. That the deselection is in this step is the
model's inference (log entry 10). -/
def Obligations.SdInitDecodeStep : Prop :=
  ∀ (s : State) (c : Command), Accepted 0x10 c s → SpiFree s →
    c.instr = .ok .sdInit ∧
    (s.card ≠ .uninitialized →
      exec .sdInit s = .next { s with result := .errState, busy := false, cur := none }) ∧
    (s.card = .uninitialized →
      exec .sdInit s = .next { s with
        div := nearestOf s.cfg.supportedDivisors s.cfg.slowDivisor
        cs := false
        history := s.history ++ [.cs false, .spi false 0xFF (cardAnswer s)]
        env := cardTaken s
        cur := some { c with pos := .wake 1 } })

/-- R454: slow divisor, deselection, and exactly ten bytes 0xFF whose answers are discarded; then GO_IDLE_STATE is next, with the
card still deselected. That the selection is in the step of the first frame byte and not in that of the tenth filler byte is
the model's inference (log entry 10). -/
def Obligations.WakeUpSendsTenFillerBytes : Prop :=
  ∀ (s : State) (c : Command) (answers rest : List Byte), Accepted 0x10 c s → SpiFree s → s.card = .uninitialized →
    s.env.cardIn = answers ++ rest → answers.length = 10 →
    runInstr .sdInit 10 s = .next { s with
      div := nearestOf s.cfg.supportedDivisors s.cfg.slowDivisor
      cs := false
      history := s.history ++ .cs false :: answers.map (.spi false 0xFF)
      env := { s.env with cardIn := rest, cardCount := s.env.cardCount + 10 }
      cur := some { c with pos := .init (.command .goIdle (.frame 0)) } }

/-- R450, R455, R310, R311: each of the five initialization commands sends the six bytes of its frame, one a step, and then polls;
GO_IDLE_STATE selects the card in the step of its first byte. That it is this step is the model's inference (log entry 10). -/
def Obligations.InitCommandsSendTheirFrames : Prop :=
  ∀ (s : State) (c : Command) (ic : InitCommand) (k : Fin 6),
    s.cur = some c → c.pos = .init (.command ic (.frame k)) → taskReady s = true →
    ∃ b, (initFrameBytes ic)[k.val]? = some b ∧
      exec ic.instr s = .next { s with
        cs := if ic = .goIdle ∧ k = 0 then true else s.cs
        history := s.history ++ (if ic = .goIdle ∧ k = 0 then [.cs true] else []) ++
          [.spi (if ic = .goIdle ∧ k = 0 then true else s.cs) b (cardAnswer s)]
        env := cardTaken s
        cur := some { c with
          pos := .init (.command ic (if h : k.val + 1 < 6 then .frame ⟨k.val + 1, h⟩ else .poll 0)) } }

/-- R451, R455 to R458, R461, R462: a poll goes on while the answer has bit 7 set and the limit is not reached; what the byte that
ends it leads to, for each of the five commands. -/
def Obligations.InitResponsesAreClassified : Prop :=
  ∀ (s : State) (c : Command) (ic : InitCommand) (n : Nat),
    s.cur = some c → c.pos = .init (.command ic (.poll n)) → taskReady s = true →
    let r := cardAnswer s
    let goOn := fun p : InitPos => ({ s with
      history := s.history ++ [.spi s.cs 0xFF r], env := cardTaken s
      cur := some { c with pos := .init p } } : State)
    let failed := fun code : ResultCode => ({ s with
      history := s.history ++ [.spi s.cs 0xFF r, .cs false], env := cardTaken s
      cs := false, card := .failed, result := code, busy := false, cur := none } : State)
    ((cardAnswer s).getLsbD 7 = true → n + 1 < s.cfg.r1PollLimit →
      exec ic.instr s = .next (goOn (.command ic (.poll (n + 1))))) ∧
    ((cardAnswer s).getLsbD 7 = false ∨ s.cfg.r1PollLimit ≤ n + 1 →
      exec ic.instr s = .next (match ic with
      | .goIdle => if r = 0x01 then goOn (.command .ifCond (.frame 0)) else failed .initNotResponding
      | .ifCond => if r = 0x01 then goOn (.ifCondReply 0) else failed .initUnsupportedCard
      | .appCmd used => goOn (.command (.opCond used) (.frame 0))
      | .opCond used =>
        if r = 0x00 then goOn (.command .readOcr (.frame 0))
        else if used + 1 < s.cfg.opcondRetryLimit then goOn (.command (.appCmd (used + 1)) (.frame 0))
        else failed .initTimeout
      | .readOcr => if r = 0x00 then goOn (.ocrReply 0 0) else failed .initNotResponding))

/-- R456, R458 to R461: the four reply bytes of SEND_IF_COND and of READ_OCR. -/
def Obligations.InitRepliesAreChecked : Prop :=
  ∀ (s : State) (c : Command) (k : Fin 4), s.cur = some c → taskReady s = true →
    let b := cardAnswer s
    (c.pos = .init (.ifCondReply k) →
      exec .sendIfCond s = .next (
        if h : k.val + 1 < 4 then { s with
          history := s.history ++ [.spi s.cs 0xFF b], env := cardTaken s
          cur := some { c with pos := .init (.ifCondReply ⟨k.val + 1, h⟩) } }
        else if b = 0xAA then { s with
          history := s.history ++ [.spi s.cs 0xFF b], env := cardTaken s
          cur := some { c with pos := .init (.command (.appCmd 0) (.frame 0)) } }
        else { s with
          history := s.history ++ [.spi s.cs 0xFF b, .cs false], env := cardTaken s
          cs := false, card := .failed, result := .initVoltageCheckFailed, busy := false, cur := none })) ∧
    (∀ o : Byte, c.pos = .init (.ocrReply k o) →
      exec .readOcr s = .next (
        if h : k.val + 1 < 4 then { s with
          history := s.history ++ [.spi s.cs 0xFF b], env := cardTaken s
          cur := some { c with pos := .init (.ocrReply ⟨k.val + 1, h⟩ (if k = 0 then b else o)) } }
        else { s with
          history := s.history ++ [.spi s.cs 0xFF b, .cs false], env := cardTaken s
          cs := false, div := nearestOf s.cfg.supportedDivisors s.cfg.fastDivisor
          card := if o.getLsbD 6 then .idleHighCapacity else .idleStandard
          result := .ok, busy := false, cur := none }))

/-- R453, R603: SD_INIT, run alone, ends for every card, within a number of transfers that the limits give; afterwards the card is
ready exactly when the result is `OK`, and else failed. -/
def Obligations.SdInitAlwaysEnds : Prop :=
  ∀ (s : State) (c : Command), Accepted 0x10 c s → SpiFree s → s.card = .uninitialized → s.cfg.wf = true →
    ∃ n t, n ≤ 10 + 3 * (6 + s.cfg.r1PollLimit) + 8 + s.cfg.opcondRetryLimit * (2 * (6 + s.cfg.r1PollLimit)) ∧
      runInstr .sdInit n s = .next t ∧ t.cur = none ∧ t.busy = false ∧ t.cs = false ∧
      (t.result = .ok → t.card.ready = true) ∧ (t.result ≠ .ok → t.card = .failed) ∧
      t.ring = s.ring ∧ t.scratch = s.scratch ∧ t.rx = s.rx

/-! ### SD reads (42_sd.md) -/

/-- R452: the wire address. -/
def Obligations.WireAddressByCapacity : Prop :=
  ∀ n : Word, (wireAddr .idleStandard n).toNat = n.toNat * 512 % 2 ^ 32 ∧ wireAddr .idleHighCapacity n = n

/-- R465: the decode checks of SD_READ in order, and the first transfer of the read. -/
def Obligations.SdReadDecodeStep : Prop :=
  ∀ (s : State) (c : Command), Accepted 0x11 c s → SpiFree s →
    let offset := (c.xfer.extractLsb' 0 16).toNat
    let length := (c.xfer.extractLsb' 16 16).toNat
    c.instr = .ok .sdRead ∧
    (512 ≤ offset ∨ 512 < offset + length →
      exec .sdRead s = .next { s with result := .ioOffsetOutOfRange, busy := false, cur := none }) ∧
    (offset < 512 → offset + length ≤ 512 → s.card = .uninitialized ∨ s.card = .failed →
      exec .sdRead s = .next { s with result := .errNotReady, busy := false, cur := none }) ∧
    (offset < 512 → offset + length ≤ 512 → s.card = .idleStandard ∨ s.card = .idleHighCapacity →
      exec .sdRead s = .next { s with
        cs := true
        history := s.history ++ [.cs true, .spi true 0x51 (cardAnswer s)]
        env := cardTaken s
        cur := some { c with pos := .read { addr := wireAddr s.card c.block, pos := .command (.frame 1) } } })

/-- R450, R466: READ_SINGLE_BLOCK sends the six bytes of its frame, one a step, for the command engine and for the producer. -/
def Obligations.ReadCommandSendsItsFrame : Prop :=
  ∀ (s : State) (addr : Word) (k : Fin 6), taskReady s = true →
    let sent := fun b : Byte => ({ s with
      cs := if k = 0 then true else s.cs
      history := s.history ++ (if k = 0 then [.cs true] else []) ++
        [.spi (if k = 0 then true else s.cs) b (cardAnswer s)]
      env := cardTaken s } : State)
    let next : ReadSeq := { addr := addr, pos := .command (if h : k.val + 1 < 6 then .frame ⟨k.val + 1, h⟩ else .poll 0) }
    ∃ b, (readFrameBytes addr)[k.val]? = some b ∧
      (∀ c : Command, s.turn = .cmd → s.cur = some c → c.pos = .read { addr := addr, pos := .command (.frame k) } →
        exec (.readSingleBlock addr) s = .next { sent b with cur := some { c with pos := .read next } }) ∧
      (∀ h : Half, s.turn = .prod → s.prod = .filling h { addr := addr, pos := .command (.frame k) } →
        exec (.readSingleBlock addr) s = .next { sent b with prod := .filling h next })

/-- R421, R451, R466, R469: every receiving step of a read, for the command engine and for the producer: it sends 0xFF, leaves the
card selected as it is, moves to the next position, stores the byte received at index `k` of the destination when it is data
byte `k` and in range, and leaves every other byte of both memories; after the second check byte the card is deselected and
the read ends with `OK`. -/
def Obligations.ReadStoresTheByteAtItsIndex : Prop :=
  ∀ (s : State) (addr : Word), taskReady s = true → memoryWf s.ring = true → memoryWf s.scratch = true →
    let b := cardAnswer s
    let received : State := { s with history := s.history ++ [.spi s.cs 0xFF b], env := cardTaken s }
    let ended : State := { s with
      cs := false, history := s.history ++ [.spi s.cs 0xFF b, .cs false], env := cardTaken s }
    (∀ (c : Command) (p q : ReadPos), s.turn = .cmd → s.cur = some c → c.pos = .read { addr := addr, pos := p } →
      ReadGoesOn s.cfg b p q →
      ∃ t, exec (.readSingleBlock addr) s = .next t ∧
        t = { received with scratch := t.scratch, cur := some { c with pos := .read { addr := addr, pos := q } } } ∧
        (∀ a, readByte t.scratch a =
          if dataIndex p = some a ∧ c.offset ≤ a ∧ a < c.offset + c.length then b else readByte s.scratch a)) ∧
    (∀ c : Command, s.turn = .cmd → s.cur = some c → c.pos = .read { addr := addr, pos := .check 1 } →
      exec (.readSingleBlock addr) s = .next { ended with result := .ok, busy := false, cur := none }) ∧
    (∀ (h : Half) (p q : ReadPos), s.turn = .prod → s.prod = .filling h { addr := addr, pos := p } →
      ReadGoesOn s.cfg b p q →
      ∃ t, exec (.readSingleBlock addr) s = .next t ∧
        t = { received with ring := t.ring, prod := .filling h { addr := addr, pos := q } } ∧
        (∀ a, readByte t.ring a =
          if dataIndex p = some a ∧ halfOf a = h ∧ a < 400 then b else readByte s.ring a)) ∧
    (∀ h : Half, s.turn = .prod → s.prod = .filling h { addr := addr, pos := .check 1 } →
      exec (.readSingleBlock addr) s = .next { ended with
        prod := .waiting
        cursor := match h with
          | .lower => s.cursor
          | .upper => BitVec.ofNat 32 ((s.cursor.toNat + 1) % s.cfg.totalBlocks) })

/-- R421, R466, R467, R468, R469: a successful read, run alone: exactly `6 + p17 + q + 514` transfers, the frame's bytes and then
0xFF, all with the card selected; the bytes of the range copied to their own indices, every other byte and every other
element as before. -/
def Obligations.SdReadCopiesTheRange : Prop :=
  ∀ (s : State) (c : Command) (frame r1Misses tokenMisses block check rest : List Byte),
    Accepted 0x11 c s → SpiFree s → s.card.ready = true → memoryWf s.scratch = true →
    c.offset < 512 → c.offset + c.length ≤ 512 →
    frame.length = 6 → PollGoesOn s.cfg r1Misses → TokenPollGoesOn s.cfg tokenMisses →
    block.length = 512 → check.length = 2 →
    s.env.cardIn = readAnswers frame r1Misses tokenMisses block check ++ rest →
    ∃ t, runInstr .sdRead (6 + (r1Misses.length + 1) + (tokenMisses.length + 1) + 514) s = .next t ∧
      (∀ a, readByte t.scratch a =
        if c.offset ≤ a ∧ a < c.offset + c.length then block.getD a 0 else readByte s.scratch a) ∧
      t = { s with
        scratch := t.scratch
        history := s.history ++ readEvents (wireAddr s.card c.block) frame
          (pollAnswers r1Misses 0x00 ++ (tokenMisses ++ [0xFE]) ++ block ++ check)
        env := { s.env with
          cardIn := rest
          cardCount := s.env.cardCount + (6 + (r1Misses.length + 1) + (tokenMisses.length + 1) + 514) }
        cs := false, result := .ok, busy := false, cur := none }

/-- R421, R466, R470, R471: a read that the card rejects or whose token does not come ends with its code, after the frame's bytes
and then 0xFF, all with the card selected; the destination and `CARD` are as before. -/
def Obligations.SdReadErrorsLeaveTheDestination : Prop :=
  ∀ (s : State) (c : Command) (frame misses rest : List Byte),
    Accepted 0x11 c s → SpiFree s → s.card.ready = true → c.offset < 512 → c.offset + c.length ≤ 512 →
    frame.length = 6 → PollGoesOn s.cfg misses →
    (∀ r : Byte, r.getLsbD 7 = false ∨ misses.length + 1 = s.cfg.r1PollLimit → r ≠ 0x00 →
      s.env.cardIn = frame ++ pollAnswers misses r ++ rest →
      runInstr .sdRead (6 + (misses.length + 1)) s = .next { s with
        history := s.history ++ readEvents (wireAddr s.card c.block) frame (pollAnswers misses r)
        env := { s.env with cardIn := rest, cardCount := s.env.cardCount + (6 + (misses.length + 1)) }
        cs := false, result := .ioCommandRejected, busy := false, cur := none }) ∧
    (∀ tokens : List Byte, tokens.length = s.cfg.tokenPollLimit → 1 ≤ s.cfg.tokenPollLimit → (∀ b ∈ tokens, b ≠ 0xFE) →
      s.env.cardIn = frame ++ pollAnswers misses 0x00 ++ tokens ++ rest →
      runInstr .sdRead (6 + (misses.length + 1) + s.cfg.tokenPollLimit) s = .next { s with
        history := s.history ++ readEvents (wireAddr s.card c.block) frame (pollAnswers misses 0x00 ++ tokens)
        env := { s.env with
          cardIn := rest, cardCount := s.env.cardCount + (6 + (misses.length + 1) + s.cfg.tokenPollLimit) }
        cs := false, result := .ioDataTokenTimeout, busy := false, cur := none })

/-- R303, R311: the wire-level operations are the steps of the operations that send them: each is the same step of SD_INIT, SD_READ
or REFILL. That the frames are such operations is the model's inference (log entry 9). -/
def Obligations.WireStepsAreTheStepsOfTheirOwners : Prop :=
  ∀ (s : State) (c : Command),
    (∀ p : InitPos, s.cur = some c → c.instr = .ok .sdInit → c.pos = .init p → exec p.instr s = exec .sdInit s) ∧
    (∀ r : ReadSeq, s.turn = .cmd → s.cur = some c → c.instr = .ok .sdRead → c.pos = .read r →
      exec (.readSingleBlock r.addr) s = exec .sdRead s) ∧
    (∀ (h : Half) (r : ReadSeq), s.turn = .prod → s.prod = .filling h r →
      exec (.readSingleBlock r.addr) s = exec .refill s)

/-! ### I2C and the DAC (43_i2c_dac.md) -/

/-- R402, R501, R502, R503, R506: the decode steps of the three I2C commands and of DAC_WRITE, with the bus free of playback: the
state check, and the first primitive issued when it passes. -/
def Obligations.I2cCommandsDecode : Prop :=
  ∀ (s : State) (c : Command), s.playing = false →
    let waiting : State := { s with cur := some { c with pos := .i2c } }
    let refused : State := { s with result := .errState, busy := false, cur := none }
    (Accepted 0x20 c s → c.instr = .ok .i2cStart ∧
      exec .i2cStart s = .next (if s.i2cOpen then refused else waiting)) ∧
    (Accepted 0x21 c s → c.instr = .ok (.i2cWrite c.data8) ∧
      exec (.i2cWrite c.data8) s = .next (if s.i2cOpen then waiting else refused)) ∧
    (Accepted 0x22 c s → c.instr = .ok .i2cStop ∧
      exec .i2cStop s = .next (if s.i2cOpen then waiting else refused)) ∧
    (Accepted 0x23 c s → c.instr = .ok (.dacWrite c.data8) ∧
      exec (.dacWrite c.data8) s = .next (
        if s.i2cOpen then refused else { s with cur := some { c with pos := .dac 0 } }))

/-- R500 to R503: the completion steps of the three I2C commands. -/
def Obligations.I2cCommandsComplete : Prop :=
  ∀ (s : State) (c : Command) (ack : Bool), i2cAnswer s = .completes ack →
    (UnderWay 0x20 .i2c c s →
      exec .i2cStart s = .next { s with
        i2cOpen := true, history := s.history ++ [.i2cStart], env := i2cTaken s
        result := .ok, busy := false, cur := none }) ∧
    (UnderWay 0x21 .i2c c s →
      exec (.i2cWrite c.data8) s = .next { s with
        history := s.history ++ [.i2cByte c.data8 ack], env := i2cTaken s
        result := .ok, busy := false, cur := none }) ∧
    (UnderWay 0x22 .i2c c s →
      exec .i2cStop s = .next { s with
        i2cOpen := false, history := s.history ++ [.i2cStop], env := i2cTaken s
        result := .ok, busy := false, cur := none })

/-- R500, R603: when the oracle never completes a primitive, the agent that waits for it has no step, and its wait outlasts every
step of every agent. The others go on: the producer fills and wakes, the consumer takes a latched tick (unless it is the one
that waits, R620), the tick source latches and loses ticks, the host reads, and its commands are lost while `BUSY`. -/
def Obligations.UnansweredPrimitiveStallsItsAgent : Prop :=
  ∀ s : State, i2cAnswer s = .never →
    (∀ c, s.turn = .cmd → s.cur = some c → c.pos = .i2c ∨ (∃ k, c.pos = .dac k) → step s = .next s.advance) ∧
    (s.turn = .cons → s.inHandler = true → step s = .next s.advance) ∧
    (∀ t, step s = .next t →
      i2cAnswer t = .never ∧
      (∀ c, s.cur = some c → s.busy = true → c.pos = .i2c ∨ (∃ k, c.pos = .dac k) → t.cur = some c ∧ t.busy = true) ∧
      (s.inHandler = true → t.inHandler = true)) ∧
    (∀ (h : Half) (r : ReadSeq), s.turn = .prod → taskReady s = true → s.prod = .filling h r →
      ∃ t, step s = .next t ∧ t.env.cardCount = s.env.cardCount + 1 ∧ t.cur = s.cur) ∧
    (s.turn = .prod → taskReady s = true → s.prod = .waiting → 0 < s.sem → spiRunning s = false →
      ∃ t, step s = .next t ∧ t.sem = s.sem - 1 ∧ t.cur = s.cur) ∧
    (s.turn = .cons → s.playing = true → s.tickLatch = true → s.inHandler = false → s.playIndex.toNat < 400 →
      ∃ t, step s = .next t ∧ t.inHandler = true ∧ t.tickLatch = false ∧ t.cur = s.cur) ∧
    (s.turn = .tickSrc → s.playing = true → s.tickLatch = false →
      step s = .next ({ s with tickLatch := true } : State).advance) ∧
    (s.turn = .tickSrc → s.playing = true → s.tickLatch = true →
      step s = .next ({ s with tickLost := true, history := s.history ++ [.hazard .tickLost] } : State).advance) ∧
    (∀ off : Nat, s.turn = .host (.read off 4) → off % 4 = 0 → off < 0x1000 → s.accessFault = none →
      step s = .next ({ s with env := { s.env with readData := readRegister s off } } : State).advance) ∧
    (∀ w : Word, s.turn = .host (.write 0x000 4 w) → s.accessFault = none → s.busy = true →
      step s = .next ({ s with cmdLost := true } : State).advance)

/-- R500, R502: the ACK bit is recorded and not read: with the other answer the step differs in nothing but the recorded bit. -/
def Obligations.NackActsAsAck : Prop :=
  ∀ (s t : State) (ack : Bool) (rest : List I2cAnswer) (i : Instr),
    s.env.i2cIn = .completes ack :: rest → exec i s = .next t →
    ∃ t', exec i { s with env := { s.env with i2cIn := .completes (!ack) :: rest } } = .next t' ∧
      ({ t' with history := t.history, env := t.env } : State) = t ∧
      t'.history.map forgetAck =
      t.history.map forgetAck

/-- R504, R505, R506: DAC_WRITE, its decode step and its whole run alone on a bus that completes every primitive: the six primitives
of the frame in order, and the sample emitted. How the history shows an emitted sample is the model's inference (log entry
11). -/
def Obligations.DacWriteEmitsItsSample : Prop :=
  ∀ (s : State) (c : Command) (a0 a1 a2 a3 a4 a5 : Bool) (rest : List I2cAnswer),
    Accepted 0x23 c s → s.playing = false → s.i2cOpen = false →
    s.env.i2cIn = [.completes a0, .completes a1, .completes a2, .completes a3, .completes a4, .completes a5] ++ rest →
    c.instr = .ok (.dacWrite c.data8) ∧
    exec (.dacWrite c.data8) s = .next { s with cur := some { c with pos := .dac 0 } } ∧
    ∃ t, runInstr (.dacWrite c.data8) 7 s = .next t ∧
      t = { s with
        history := s.history ++ [.i2cStart, .i2cByte (s.cfg.dacAddr ++ (0 : BitVec 1)) a1, .i2cByte s.cfg.dacCmd a2,
          .i2cByte c.data8 a3, .i2cByte s.cfg.dacLow a4, .i2cStop]
        env := { s.env with i2cIn := rest, i2cCount := s.env.i2cCount + 6 }
        result := .ok, busy := false, cur := none } ∧
      emitted t = emitted s ++ [c.data8]

/-! ### Playback control (44_audio.md) -/

/-- R531: PB_START. -/
def Obligations.PbStartEnablesTheInterrupt : Prop :=
  ∀ (s : State) (c : Command), Accepted 0x30 c s →
    c.instr = .ok .pbStart ∧
    exec .pbStart s = .next (
      if s.i2cOpen then { s with result := .errBusy, busy := false, cur := none }
      else if s.playing then { s with result := .ok, busy := false, cur := none }
      else if s.card = .idleStandard ∨ s.card = .idleHighCapacity then
        { s with playing := true, result := .ok, busy := false, cur := none }
      else { s with result := .errNotReady, busy := false, cur := none })

/-- R532: the decode step of PB_STOP, and its whole run on a bus that completes every primitive: playback is off from the first step
on, and the silence sample is emitted. How the history shows an emitted sample is the model's inference (log entry 11). -/
def Obligations.PbStopEmitsSilence : Prop :=
  ∀ (s : State) (c : Command), Accepted 0x31 c s →
    c.instr = .ok .pbStop ∧
    (s.playing = false → exec .pbStop s = .next { s with result := .ok, busy := false, cur := none }) ∧
    (s.playing = true →
      exec .pbStop s = .next { s with
        playing := false, tickLatch := false, cur := some { c with pos := .dac 0 } } ∧
      ∀ (a0 a1 a2 a3 a4 a5 : Bool) (rest : List I2cAnswer),
        s.env.i2cIn = [.completes a0, .completes a1, .completes a2, .completes a3, .completes a4, .completes a5] ++ rest →
        ∃ t, runInstr .pbStop 7 s = .next t ∧
          t = { s with
            playing := false, tickLatch := false, i2cOpen := false
            history := s.history ++ [.i2cStart, .i2cByte (s.cfg.dacAddr ++ (0 : BitVec 1)) a1, .i2cByte s.cfg.dacCmd a2,
              .i2cByte s.cfg.silenceSample a3, .i2cByte s.cfg.dacLow a4, .i2cStop]
            env := { s.env with i2cIn := rest, i2cCount := s.env.i2cCount + 6 }
            result := .ok, busy := false, cur := none } ∧
          emitted t = emitted s ++ [s.cfg.silenceSample])

/-! ### The sample interrupt: TICK (44_audio.md, 60_exceptions.md) -/

/-- R535, R612: the tick source. -/
def Obligations.TickSourceLatchesOneTick : Prop :=
  ∀ s : State, s.turn = .tickSrc →
    (s.playing = false → step s = .next s.advance) ∧
    (s.playing = true → s.tickLatch = false → step s = .next ({ s with tickLatch := true } : State).advance) ∧
    (s.playing = true → s.tickLatch = true →
      step s = .next ({ s with tickLost := true, history := s.history ++ [.hazard .tickLost] } : State).advance)

/-- R536, R551, R625: the handler's entry, with the underrun check; the state of every task is untouched. R536: without a tick latched
during playback the consumer has no entry step (that exec then answers a refusal is the model's choice, log entry 3). R627: a
step inside the handler is no entry: it takes no latched tick and looks for no underrun. -/
def Obligations.TickEntersTheHandler : Prop :=
  (∀ s : State, s.playing = true → s.tickLatch = true → s.inHandler = false → s.playIndex.toNat < 400 →
    let under : Prop := ∃ r, s.prod = .filling (if s.playIndex.toNat < 200 then .lower else .upper) r
    (under →
      exec .tick s = .next { s with
        tickLatch := false, inHandler := true, hsample := readByte s.ring s.playIndex.toNat, hpos := 0
        underrun := true, history := s.history ++ [.hazard .underrun] }) ∧
    (¬ under →
      exec .tick s = .next { s with
        tickLatch := false, inHandler := true, hsample := readByte s.ring s.playIndex.toNat, hpos := 0 })) ∧
  (∀ s : State, s.inHandler = false → ¬ (s.playing = true ∧ s.tickLatch = true) →
    exec .tick s = .refused .noStep ∧ enabled .cons s = false) ∧
  (∀ s t : State, s.inHandler = true → exec .tick s = .next t →
    t.tickLatch = s.tickLatch ∧ t.underrun = s.underrun)

/-- R538, R539, R540, R545, R552: the handler's exit, in the completion of the frame's STOP. `HSAMPLE` and the frame position after
it, which R113 calls meaningless, are left free. -/
def Obligations.HandlerExitAdvancesTheIndex : Prop :=
  ∀ (s : State) (ack : Bool), s.inHandler = true → s.hpos = 5 → i2cAnswer s = .completes ack → s.playIndex.toNat < 400 →
    let crossed : Option Half :=
      if s.playIndex.toNat + 1 = 200 then some .lower else if s.playIndex.toNat + 1 = 400 then some .upper else none
    let index : BitVec 9 := BitVec.ofNat 9 ((s.playIndex.toNat + 1) % 400)
    ∃ t, exec .tick s = .next t ∧ t = (match crossed with
      | none => { s with
          hsample := t.hsample, hpos := t.hpos
          i2cOpen := false, inHandler := false, playIndex := index
          history := s.history ++ [.i2cStop], env := i2cTaken s }
      | some h => { s with
          hsample := t.hsample, hpos := t.hpos
          i2cOpen := false, inHandler := false, playIndex := index
          pending := some h, sem := s.sem + 1, sigOverrun := s.sigOverrun || s.pending.isSome
          history := s.history ++ ([.i2cStop] ++ (if s.pending.isSome then [.hazard .signalOverrun] else []) ++ [.signal h])
          env := i2cTaken s })

/-- R536 to R538, R625, R626, R630: the handler changes nothing of the tasks and of the enable, at entry, inside and at exit.
R500, R505, R537, R612: each of the five completions before the STOP records its primitive of the frame, with the ACK bit of a
byte, moves to the next primitive, opens the transaction when it is the START, and changes nothing else, a latched tick
included. The position in the frame counts the completed primitives (log entry 5). -/
def Obligations.HandlerLeavesTheTasks : Prop :=
  (∀ s t : State, exec .tick s = .next t →
    t = { s with
      tickLatch := t.tickLatch, inHandler := t.inHandler, hsample := t.hsample, hpos := t.hpos, i2cOpen := t.i2cOpen
      playIndex := t.playIndex, pending := t.pending, sem := t.sem, underrun := t.underrun, sigOverrun := t.sigOverrun
      history := t.history, env := t.env }) ∧
  (∀ (s : State) (ack : Bool), s.inHandler = true → s.hpos.val < 5 → i2cAnswer s = .completes ack →
    ∃ e : Event,
      [Event.i2cStart, .i2cByte (s.cfg.dacAddr ++ (0 : BitVec 1)) ack, .i2cByte s.cfg.dacCmd ack, .i2cByte s.hsample ack,
        .i2cByte s.cfg.dacLow ack][s.hpos.val]? = some e ∧
      exec .tick s = .next { s with
        hpos := s.hpos + 1
        i2cOpen := if s.hpos = 0 then true else s.i2cOpen
        history := s.history ++ [e]
        env := i2cTaken s })

/-- R541, R505, R538 to R540: `n` whole ticks from `PLAY_INDEX = i0` emit the ring in index order, wrapping at 400, and signal
Lower and Upper exactly at the crossings. How the history shows an emitted sample is the model's inference (log entry 11). -/
def Obligations.TicksPlayTheRingAndSignalCrossings : Prop :=
  ∀ (n : Nat) (s : State), s.playing = true → s.tickLatch = false → s.inHandler = false → s.playIndex.toNat < 400 →
    I2cCompletes (6 * n) s →
    ∃ t, runTicks n s = .next t ∧
      t.playIndex.toNat = (s.playIndex.toNat + n) % 400 ∧
      signals t.history = signals s.history ++ expectedSignals s.playIndex.toNat n ∧
      t.sem = s.sem + (expectedSignals s.playIndex.toNat n).length ∧
      emitted t = emitted s ++ (List.range n).map (fun j => readByte s.ring ((s.playIndex.toNat + j) % 400)) ∧
      t.ring = s.ring ∧ t.prod = s.prod ∧ t.cur = s.cur

/-- R620, R409: while the handler runs or a tick is latched during playback, no operation of the command engine or of the
producer has a step, and their turns pass. R22, R621: in a fair run a latched tick is taken, with no task step before it. -/
def Obligations.TasksWaitForTheHandler : Prop :=
  (∀ s : State, s.inHandler = true ∨ (s.playing = true ∧ s.tickLatch = true) →
    (∀ i : Instr, i ≠ .tick → exec i s = .refused .noStep) ∧
    enabled .cmd s = false ∧ enabled .prod s = false ∧
    (s.turn = .cmd ∨ s.turn = .prod → step s = .next s.advance)) ∧
  (∀ (σ : Nat → State) (n : Nat), FairRun σ →
    (σ n).playing = true → (σ n).tickLatch = true → (σ n).inHandler = false →
    ∃ k, n ≤ k ∧ (σ k).turn = .cons ∧ (σ (k + 1)).inHandler = true ∧
      ∀ m, n ≤ m → m ≤ k → enabled .cmd (σ m) = false ∧ enabled .prod (σ m) = false)

/-! ### The producer: REFILL (44_audio.md) -/

/-- R546, R547: the producer's wake: the signal is taken and the request read and cleared; a spurious wake does nothing more, and
else the first transfer of the fill is made. What counts as running an SPI-class command is the model's inference (log entry
7). -/
def Obligations.RefillWakeTakesTheSignal : Prop :=
  ∀ s : State, s.prod = .waiting → 0 < s.sem → taskReady s = true → spiRunning s = false →
    (s.pending = none → exec .refill s = .next { s with sem := s.sem - 1 }) ∧
    (∀ h : Half, s.pending = some h → s.card = .idleStandard ∨ s.card = .idleHighCapacity →
      exec .refill s = .next { s with
        sem := s.sem - 1, pending := none, cs := true
        prod := .filling h
          { addr := wireAddr s.card (BitVec.ofNat 32 (s.cfg.startBlock.toNat + s.cursor.toNat)), pos := .command (.frame 1) }
        history := s.history ++ [.cs true, .spi true 0x51 (cardAnswer s)], env := cardTaken s }) ∧
    (∀ h : Half, s.pending = some h → s.card = .uninitialized ∨ s.card = .failed →
      exec .refill s = .next { s with
        sem := s.sem - 1, pending := none, refillErr := true, rerr := .errNotReady })

/-- R421, R466, R547, R548, R549: a successful refill, run alone: `6 + p17 + q + 514` steps, each a transfer with the card selected,
of the frame's bytes and then of 0xFF; the half is filled from the same bytes of the block,
every other byte of the ring stays, the cursor advances after an Upper fill, the producer waits again. -/
def Obligations.RefillFillsItsHalf : Prop :=
  ∀ (s : State) (h : Half) (frame r1Misses tokenMisses block check rest : List Byte),
    s.prod = .waiting → 0 < s.sem → s.pending = some h → taskReady s = true → spiRunning s = false →
    s.card.ready = true → memoryWf s.ring = true →
    frame.length = 6 → PollGoesOn s.cfg r1Misses → TokenPollGoesOn s.cfg tokenMisses →
    block.length = 512 → check.length = 2 →
    s.env.cardIn = readAnswers frame r1Misses tokenMisses block check ++ rest →
    ∃ t, runInstr .refill (6 + (r1Misses.length + 1) + (tokenMisses.length + 1) + 514) s = .next t ∧
      (∀ a, a < 400 → readByte t.ring a = if halfOf a = h then block.getD a 0 else readByte s.ring a) ∧
      (∀ a, 400 ≤ a → readByte t.ring a = readByte s.ring a) ∧
      t = { s with
        ring := t.ring
        history := s.history ++
          readEvents (wireAddr s.card (BitVec.ofNat 32 (s.cfg.startBlock.toNat + s.cursor.toNat))) frame
            (pollAnswers r1Misses 0x00 ++ (tokenMisses ++ [0xFE]) ++ block ++ check)
        env := { s.env with
          cardIn := rest
          cardCount := s.env.cardCount + (6 + (r1Misses.length + 1) + (tokenMisses.length + 1) + 514) }
        sem := s.sem - 1, pending := none, cs := false
        cursor := match h with
          | .lower => s.cursor
          | .upper => BitVec.ofNat 32 ((s.cursor.toNat + 1) % s.cfg.totalBlocks) }

/-- R549, R550: a refill whose command is rejected or whose token does not come sets `REFILL_ERR` and `RERR`, leaves the half, advances
the cursor as normal, and goes back to waiting. -/
def Obligations.RefillErrorIsFlagged : Prop :=
  ∀ (s : State) (h : Half) (addr : Word) (n : Nat), taskReady s = true →
    let ended := fun code : ResultCode => ({ s with
      refillErr := true, rerr := code, prod := .waiting, cs := false
      cursor := match h with
        | .lower => s.cursor
        | .upper => BitVec.ofNat 32 ((s.cursor.toNat + 1) % s.cfg.totalBlocks)
      history := s.history ++ [.spi s.cs 0xFF (cardAnswer s), .cs false], env := cardTaken s } : State)
    (s.prod = .filling h { addr := addr, pos := .command (.poll n) } →
      (cardAnswer s).getLsbD 7 = false ∨ s.cfg.r1PollLimit ≤ n + 1 → cardAnswer s ≠ 0x00 →
      exec .refill s = .next (ended .ioCommandRejected)) ∧
    (s.prod = .filling h { addr := addr, pos := .token n } →
      cardAnswer s ≠ 0xFE → s.cfg.tokenPollLimit ≤ n + 1 →
      exec .refill s = .next (ended .ioDataTokenTimeout))

/-! ### No influence -/

/-- R22, R108: the divisor has no effect on anything but itself and what the host reads of it: that two states differ in nothing
else is a relation that every step keeps. -/
def Obligations.DivisorInfluencesNothing : Prop :=
  ∀ s s' t : State, SameButDivisor s s' → step s = .next t → ∃ t', step s' = .next t' ∧ SameButDivisor t t'
end

