-- ==== Sys2Proof/Laws/Memory.lean ====
section
/-! SUPPORT. The laws of the byte memories: a read after a write, and that a write keeps the canonical form and the bound. -/

namespace Sys2Proof.Machine

theorem canonicalFrom_weaken {lo hi : Nat} {m : Memory} (h : lo ≤ hi) (hm : canonicalFrom hi m = true) :
    canonicalFrom lo m = true := by
  cases m with
  | nil => rfl
  | cons c m =>
    simp only [canonicalFrom, Bool.and_eq_true, decide_eq_true_eq] at hm ⊢
    exact ⟨⟨by omega, hm.1.2⟩, hm.2⟩

theorem readByte_below_form {lo a : Nat} {m : Memory} (hm : canonicalFrom lo m = true) (h : a < lo) :
    readByte m a = unlisted := by
  induction m generalizing lo with
  | nil => rfl
  | cons c m ih =>
    simp only [canonicalFrom, Bool.and_eq_true, decide_eq_true_eq] at hm
    have hne : c.1 ≠ a := by omega
    simp only [readByte, if_neg hne]
    exact ih hm.2 (by omega)

theorem canonicalFrom_writeByte {lo a : Nat} {v : Byte} {m : Memory} (hm : canonicalFrom lo m = true) (h : lo ≤ a) :
    canonicalFrom lo (writeByte m a v) = true := by
  induction m generalizing lo with
  | nil =>
    by_cases hv : v = unlisted <;> simp [writeByte, canonicalFrom, hv, h]
  | cons c m ih =>
    obtain ⟨b, w⟩ := c
    simp only [canonicalFrom, Bool.and_eq_true, decide_eq_true_eq, bne_iff_ne] at hm
    obtain ⟨⟨hlo, hw⟩, hm⟩ := hm
    simp only [writeByte]
    split
    · split
      · simp [canonicalFrom, hlo, hw, hm]
      · simp only [canonicalFrom, Bool.and_eq_true, decide_eq_true_eq, bne_iff_ne]
        exact ⟨⟨h, by assumption⟩, ⟨by omega, hw⟩, hm⟩
    · split
      · rename_i hab; subst hab
        split
        · exact canonicalFrom_weaken (by omega) hm
        · simp only [canonicalFrom, Bool.and_eq_true, decide_eq_true_eq, bne_iff_ne]
          exact ⟨⟨hlo, by assumption⟩, hm⟩
      · simp only [canonicalFrom, Bool.and_eq_true, decide_eq_true_eq, bne_iff_ne]
        exact ⟨⟨hlo, hw⟩, ih hm (by omega)⟩

/-- A write keeps the canonical form. -/
theorem memoryWf_writeByte {m : Memory} (a : Nat) (v : Byte) (hm : memoryWf m = true) :
    memoryWf (writeByte m a v) = true :=
  canonicalFrom_writeByte hm (Nat.zero_le a)

/-- A write below the bound keeps every listed index below it. -/
theorem memoryBelow_writeByte {n a : Nat} {v : Byte} {m : Memory} (hm : memoryBelow n m = true) (h : a < n) :
    memoryBelow n (writeByte m a v) = true := by
  induction m with
  | nil => by_cases hv : v = unlisted <;> simp [writeByte, memoryBelow, hv, h]
  | cons c m ih =>
    obtain ⟨b, w⟩ := c
    simp only [memoryBelow, List.all_cons, Bool.and_eq_true, decide_eq_true_eq] at hm ih ⊢
    simp only [writeByte]
    split
    · split <;> simp [hm, h]
    · split
      · split <;> simp [hm, h]
      · simp [hm.1, ih hm.2]

theorem readByte_writeByte_from {lo a : Nat} {v : Byte} {m : Memory} (b : Nat) (hm : canonicalFrom lo m = true) :
    readByte (writeByte m a v) b = if b = a then v else readByte m b := by
  induction m generalizing lo with
  | nil =>
    rcases eq_or_ne b a with rfl | hb
    · by_cases hv : v = unlisted <;> simp [writeByte, readByte, hv]
    · by_cases hv : v = unlisted <;> simp [writeByte, readByte, hv, hb, hb.symm]
  | cons c m ih =>
    obtain ⟨d, w⟩ := c
    simp only [canonicalFrom, Bool.and_eq_true, decide_eq_true_eq] at hm
    have hbelow := fun x (hx : x < d + 1) => readByte_below_form hm.2 hx
    simp only [writeByte]
    by_cases hb : b = a
    · subst hb
      simp only [if_pos]
      split
      · rename_i hlt
        split
        · rename_i hv
          have hne : d ≠ b := by omega
          simp only [readByte, if_neg hne, hv]
          exact hbelow b (by omega)
        · simp [readByte]
      · split
        · rename_i hdb
          split
          · rename_i hv
            rw [hv]; exact hbelow b (by omega)
          · simp [readByte]
        · rename_i hne
          have hne' : d ≠ b := fun h => hne h.symm
          simp only [readByte, if_neg hne']
          rw [ih hm.2, if_pos rfl]
    · rw [if_neg hb]
      have hab : ¬ a = b := fun h => hb h.symm
      split
      · split
        · rfl
        · simp [readByte, hab]
      · split
        · rename_i had
          subst had
          split
          · rw [readByte, if_neg hab]
          · simp [readByte, hab]
        · simp only [readByte]
          split
          · rfl
          · rw [ih hm.2, if_neg hb]

/-- Reading after a write in a canonical memory: the byte written at its index, and the old byte everywhere else. -/
theorem readByte_writeByte {m : Memory} (a b : Nat) (v : Byte) (hm : memoryWf m = true) :
    readByte (writeByte m a v) b = if b = a then v else readByte m b :=
  readByte_writeByte_from b hm

/-- Reading at another index, in every memory. -/
theorem readByte_writeByte_other {a b : Nat} {v : Byte} {m : Memory} (h : b ≠ a) :
    readByte (writeByte m a v) b = readByte m b := by
  have hab : ¬ a = b := fun e => h e.symm
  induction m with
  | nil => by_cases hv : v = unlisted <;> simp [writeByte, readByte, hv, hab]
  | cons c m ih =>
    obtain ⟨d, w⟩ := c
    simp only [writeByte]
    split
    · split
      · rfl
      · simp [readByte, hab]
    · split
      · rename_i had
        subst had
        split <;> simp [readByte, hab]
      · simp only [readByte, ih]

end Sys2Proof.Machine
end

