-- ==== Sys2Proof/Laws/State.lean ====
section
/-! SUPPORT. Reading a field of the state after each of the machine's plain updates: one lemma per field per update. -/

namespace Sys2Proof.Machine

/-! ### `record` -/

@[simp] theorem record_busy (e : Event) (s : State) : (record e s).busy = s.busy := rfl
@[simp] theorem record_cur (e : Event) (s : State) : (record e s).cur = s.cur := rfl
@[simp] theorem record_result (e : Event) (s : State) : (record e s).result = s.result := rfl
@[simp] theorem record_rx (e : Event) (s : State) : (record e s).rx = s.rx := rfl
@[simp] theorem record_block (e : Event) (s : State) : (record e s).block = s.block := rfl
@[simp] theorem record_xfer (e : Event) (s : State) : (record e s).xfer = s.xfer := rfl
@[simp] theorem record_divreq (e : Event) (s : State) : (record e s).divreq = s.divreq := rfl
@[simp] theorem record_cs (e : Event) (s : State) : (record e s).cs = s.cs := rfl
@[simp] theorem record_div (e : Event) (s : State) : (record e s).div = s.div := rfl
@[simp] theorem record_card (e : Event) (s : State) : (record e s).card = s.card := rfl
@[simp] theorem record_i2cOpen (e : Event) (s : State) : (record e s).i2cOpen = s.i2cOpen := rfl
@[simp] theorem record_playing (e : Event) (s : State) : (record e s).playing = s.playing := rfl
@[simp] theorem record_tickLatch (e : Event) (s : State) : (record e s).tickLatch = s.tickLatch := rfl
@[simp] theorem record_inHandler (e : Event) (s : State) : (record e s).inHandler = s.inHandler := rfl
@[simp] theorem record_hsample (e : Event) (s : State) : (record e s).hsample = s.hsample := rfl
@[simp] theorem record_hpos (e : Event) (s : State) : (record e s).hpos = s.hpos := rfl
@[simp] theorem record_playIndex (e : Event) (s : State) : (record e s).playIndex = s.playIndex := rfl
@[simp] theorem record_pending (e : Event) (s : State) : (record e s).pending = s.pending := rfl
@[simp] theorem record_sem (e : Event) (s : State) : (record e s).sem = s.sem := rfl
@[simp] theorem record_prod (e : Event) (s : State) : (record e s).prod = s.prod := rfl
@[simp] theorem record_cursor (e : Event) (s : State) : (record e s).cursor = s.cursor := rfl
@[simp] theorem record_underrun (e : Event) (s : State) : (record e s).underrun = s.underrun := rfl
@[simp] theorem record_sigOverrun (e : Event) (s : State) : (record e s).sigOverrun = s.sigOverrun := rfl
@[simp] theorem record_tickLost (e : Event) (s : State) : (record e s).tickLost = s.tickLost := rfl
@[simp] theorem record_cmdLost (e : Event) (s : State) : (record e s).cmdLost = s.cmdLost := rfl
@[simp] theorem record_refillErr (e : Event) (s : State) : (record e s).refillErr = s.refillErr := rfl
@[simp] theorem record_rerr (e : Event) (s : State) : (record e s).rerr = s.rerr := rfl
@[simp] theorem record_ring (e : Event) (s : State) : (record e s).ring = s.ring := rfl
@[simp] theorem record_scratch (e : Event) (s : State) : (record e s).scratch = s.scratch := rfl
@[simp] theorem record_history (e : Event) (s : State) : (record e s).history = s.history ++ [e] := rfl
@[simp] theorem record_accessFault (e : Event) (s : State) : (record e s).accessFault = s.accessFault := rfl
@[simp] theorem record_cfg (e : Event) (s : State) : (record e s).cfg = s.cfg := rfl
@[simp] theorem record_env (e : Event) (s : State) : (record e s).env = s.env := rfl

/-! ### `takeCardAnswer` -/

@[simp] theorem takeCardAnswer_busy (s : State) : (takeCardAnswer s).busy = s.busy := rfl
@[simp] theorem takeCardAnswer_cur (s : State) : (takeCardAnswer s).cur = s.cur := rfl
@[simp] theorem takeCardAnswer_result (s : State) : (takeCardAnswer s).result = s.result := rfl
@[simp] theorem takeCardAnswer_rx (s : State) : (takeCardAnswer s).rx = s.rx := rfl
@[simp] theorem takeCardAnswer_block (s : State) : (takeCardAnswer s).block = s.block := rfl
@[simp] theorem takeCardAnswer_xfer (s : State) : (takeCardAnswer s).xfer = s.xfer := rfl
@[simp] theorem takeCardAnswer_divreq (s : State) : (takeCardAnswer s).divreq = s.divreq := rfl
@[simp] theorem takeCardAnswer_cs (s : State) : (takeCardAnswer s).cs = s.cs := rfl
@[simp] theorem takeCardAnswer_div (s : State) : (takeCardAnswer s).div = s.div := rfl
@[simp] theorem takeCardAnswer_card (s : State) : (takeCardAnswer s).card = s.card := rfl
@[simp] theorem takeCardAnswer_i2cOpen (s : State) : (takeCardAnswer s).i2cOpen = s.i2cOpen := rfl
@[simp] theorem takeCardAnswer_playing (s : State) : (takeCardAnswer s).playing = s.playing := rfl
@[simp] theorem takeCardAnswer_tickLatch (s : State) : (takeCardAnswer s).tickLatch = s.tickLatch := rfl
@[simp] theorem takeCardAnswer_inHandler (s : State) : (takeCardAnswer s).inHandler = s.inHandler := rfl
@[simp] theorem takeCardAnswer_hsample (s : State) : (takeCardAnswer s).hsample = s.hsample := rfl
@[simp] theorem takeCardAnswer_hpos (s : State) : (takeCardAnswer s).hpos = s.hpos := rfl
@[simp] theorem takeCardAnswer_playIndex (s : State) : (takeCardAnswer s).playIndex = s.playIndex := rfl
@[simp] theorem takeCardAnswer_pending (s : State) : (takeCardAnswer s).pending = s.pending := rfl
@[simp] theorem takeCardAnswer_sem (s : State) : (takeCardAnswer s).sem = s.sem := rfl
@[simp] theorem takeCardAnswer_prod (s : State) : (takeCardAnswer s).prod = s.prod := rfl
@[simp] theorem takeCardAnswer_cursor (s : State) : (takeCardAnswer s).cursor = s.cursor := rfl
@[simp] theorem takeCardAnswer_underrun (s : State) : (takeCardAnswer s).underrun = s.underrun := rfl
@[simp] theorem takeCardAnswer_sigOverrun (s : State) : (takeCardAnswer s).sigOverrun = s.sigOverrun := rfl
@[simp] theorem takeCardAnswer_tickLost (s : State) : (takeCardAnswer s).tickLost = s.tickLost := rfl
@[simp] theorem takeCardAnswer_cmdLost (s : State) : (takeCardAnswer s).cmdLost = s.cmdLost := rfl
@[simp] theorem takeCardAnswer_refillErr (s : State) : (takeCardAnswer s).refillErr = s.refillErr := rfl
@[simp] theorem takeCardAnswer_rerr (s : State) : (takeCardAnswer s).rerr = s.rerr := rfl
@[simp] theorem takeCardAnswer_ring (s : State) : (takeCardAnswer s).ring = s.ring := rfl
@[simp] theorem takeCardAnswer_scratch (s : State) : (takeCardAnswer s).scratch = s.scratch := rfl
@[simp] theorem takeCardAnswer_history (s : State) : (takeCardAnswer s).history = s.history := rfl
@[simp] theorem takeCardAnswer_accessFault (s : State) : (takeCardAnswer s).accessFault = s.accessFault := rfl
@[simp] theorem takeCardAnswer_cfg (s : State) : (takeCardAnswer s).cfg = s.cfg := rfl
@[simp] theorem takeCardAnswer_env (s : State) : (takeCardAnswer s).env = { s.env with cardIn := s.env.cardIn.tail, cardCount := s.env.cardCount + 1 } := rfl

/-! ### `takeI2cAnswer` -/

@[simp] theorem takeI2cAnswer_busy (s : State) : (takeI2cAnswer s).busy = s.busy := rfl
@[simp] theorem takeI2cAnswer_cur (s : State) : (takeI2cAnswer s).cur = s.cur := rfl
@[simp] theorem takeI2cAnswer_result (s : State) : (takeI2cAnswer s).result = s.result := rfl
@[simp] theorem takeI2cAnswer_rx (s : State) : (takeI2cAnswer s).rx = s.rx := rfl
@[simp] theorem takeI2cAnswer_block (s : State) : (takeI2cAnswer s).block = s.block := rfl
@[simp] theorem takeI2cAnswer_xfer (s : State) : (takeI2cAnswer s).xfer = s.xfer := rfl
@[simp] theorem takeI2cAnswer_divreq (s : State) : (takeI2cAnswer s).divreq = s.divreq := rfl
@[simp] theorem takeI2cAnswer_cs (s : State) : (takeI2cAnswer s).cs = s.cs := rfl
@[simp] theorem takeI2cAnswer_div (s : State) : (takeI2cAnswer s).div = s.div := rfl
@[simp] theorem takeI2cAnswer_card (s : State) : (takeI2cAnswer s).card = s.card := rfl
@[simp] theorem takeI2cAnswer_i2cOpen (s : State) : (takeI2cAnswer s).i2cOpen = s.i2cOpen := rfl
@[simp] theorem takeI2cAnswer_playing (s : State) : (takeI2cAnswer s).playing = s.playing := rfl
@[simp] theorem takeI2cAnswer_tickLatch (s : State) : (takeI2cAnswer s).tickLatch = s.tickLatch := rfl
@[simp] theorem takeI2cAnswer_inHandler (s : State) : (takeI2cAnswer s).inHandler = s.inHandler := rfl
@[simp] theorem takeI2cAnswer_hsample (s : State) : (takeI2cAnswer s).hsample = s.hsample := rfl
@[simp] theorem takeI2cAnswer_hpos (s : State) : (takeI2cAnswer s).hpos = s.hpos := rfl
@[simp] theorem takeI2cAnswer_playIndex (s : State) : (takeI2cAnswer s).playIndex = s.playIndex := rfl
@[simp] theorem takeI2cAnswer_pending (s : State) : (takeI2cAnswer s).pending = s.pending := rfl
@[simp] theorem takeI2cAnswer_sem (s : State) : (takeI2cAnswer s).sem = s.sem := rfl
@[simp] theorem takeI2cAnswer_prod (s : State) : (takeI2cAnswer s).prod = s.prod := rfl
@[simp] theorem takeI2cAnswer_cursor (s : State) : (takeI2cAnswer s).cursor = s.cursor := rfl
@[simp] theorem takeI2cAnswer_underrun (s : State) : (takeI2cAnswer s).underrun = s.underrun := rfl
@[simp] theorem takeI2cAnswer_sigOverrun (s : State) : (takeI2cAnswer s).sigOverrun = s.sigOverrun := rfl
@[simp] theorem takeI2cAnswer_tickLost (s : State) : (takeI2cAnswer s).tickLost = s.tickLost := rfl
@[simp] theorem takeI2cAnswer_cmdLost (s : State) : (takeI2cAnswer s).cmdLost = s.cmdLost := rfl
@[simp] theorem takeI2cAnswer_refillErr (s : State) : (takeI2cAnswer s).refillErr = s.refillErr := rfl
@[simp] theorem takeI2cAnswer_rerr (s : State) : (takeI2cAnswer s).rerr = s.rerr := rfl
@[simp] theorem takeI2cAnswer_ring (s : State) : (takeI2cAnswer s).ring = s.ring := rfl
@[simp] theorem takeI2cAnswer_scratch (s : State) : (takeI2cAnswer s).scratch = s.scratch := rfl
@[simp] theorem takeI2cAnswer_history (s : State) : (takeI2cAnswer s).history = s.history := rfl
@[simp] theorem takeI2cAnswer_accessFault (s : State) : (takeI2cAnswer s).accessFault = s.accessFault := rfl
@[simp] theorem takeI2cAnswer_cfg (s : State) : (takeI2cAnswer s).cfg = s.cfg := rfl
@[simp] theorem takeI2cAnswer_env (s : State) : (takeI2cAnswer s).env = { s.env with i2cIn := s.env.i2cIn.tail, i2cCount := s.env.i2cCount + 1 } := rfl

/-! ### `selectCard` -/

@[simp] theorem selectCard_busy (v : Bool) (s : State) : (selectCard v s).busy = s.busy := rfl
@[simp] theorem selectCard_cur (v : Bool) (s : State) : (selectCard v s).cur = s.cur := rfl
@[simp] theorem selectCard_result (v : Bool) (s : State) : (selectCard v s).result = s.result := rfl
@[simp] theorem selectCard_rx (v : Bool) (s : State) : (selectCard v s).rx = s.rx := rfl
@[simp] theorem selectCard_block (v : Bool) (s : State) : (selectCard v s).block = s.block := rfl
@[simp] theorem selectCard_xfer (v : Bool) (s : State) : (selectCard v s).xfer = s.xfer := rfl
@[simp] theorem selectCard_divreq (v : Bool) (s : State) : (selectCard v s).divreq = s.divreq := rfl
@[simp] theorem selectCard_cs (v : Bool) (s : State) : (selectCard v s).cs = v := rfl
@[simp] theorem selectCard_div (v : Bool) (s : State) : (selectCard v s).div = s.div := rfl
@[simp] theorem selectCard_card (v : Bool) (s : State) : (selectCard v s).card = s.card := rfl
@[simp] theorem selectCard_i2cOpen (v : Bool) (s : State) : (selectCard v s).i2cOpen = s.i2cOpen := rfl
@[simp] theorem selectCard_playing (v : Bool) (s : State) : (selectCard v s).playing = s.playing := rfl
@[simp] theorem selectCard_tickLatch (v : Bool) (s : State) : (selectCard v s).tickLatch = s.tickLatch := rfl
@[simp] theorem selectCard_inHandler (v : Bool) (s : State) : (selectCard v s).inHandler = s.inHandler := rfl
@[simp] theorem selectCard_hsample (v : Bool) (s : State) : (selectCard v s).hsample = s.hsample := rfl
@[simp] theorem selectCard_hpos (v : Bool) (s : State) : (selectCard v s).hpos = s.hpos := rfl
@[simp] theorem selectCard_playIndex (v : Bool) (s : State) : (selectCard v s).playIndex = s.playIndex := rfl
@[simp] theorem selectCard_pending (v : Bool) (s : State) : (selectCard v s).pending = s.pending := rfl
@[simp] theorem selectCard_sem (v : Bool) (s : State) : (selectCard v s).sem = s.sem := rfl
@[simp] theorem selectCard_prod (v : Bool) (s : State) : (selectCard v s).prod = s.prod := rfl
@[simp] theorem selectCard_cursor (v : Bool) (s : State) : (selectCard v s).cursor = s.cursor := rfl
@[simp] theorem selectCard_underrun (v : Bool) (s : State) : (selectCard v s).underrun = s.underrun := rfl
@[simp] theorem selectCard_sigOverrun (v : Bool) (s : State) : (selectCard v s).sigOverrun = s.sigOverrun := rfl
@[simp] theorem selectCard_tickLost (v : Bool) (s : State) : (selectCard v s).tickLost = s.tickLost := rfl
@[simp] theorem selectCard_cmdLost (v : Bool) (s : State) : (selectCard v s).cmdLost = s.cmdLost := rfl
@[simp] theorem selectCard_refillErr (v : Bool) (s : State) : (selectCard v s).refillErr = s.refillErr := rfl
@[simp] theorem selectCard_rerr (v : Bool) (s : State) : (selectCard v s).rerr = s.rerr := rfl
@[simp] theorem selectCard_ring (v : Bool) (s : State) : (selectCard v s).ring = s.ring := rfl
@[simp] theorem selectCard_scratch (v : Bool) (s : State) : (selectCard v s).scratch = s.scratch := rfl
@[simp] theorem selectCard_history (v : Bool) (s : State) : (selectCard v s).history = s.history ++ [.cs v] := rfl
@[simp] theorem selectCard_accessFault (v : Bool) (s : State) : (selectCard v s).accessFault = s.accessFault := rfl
@[simp] theorem selectCard_cfg (v : Bool) (s : State) : (selectCard v s).cfg = s.cfg := rfl
@[simp] theorem selectCard_env (v : Bool) (s : State) : (selectCard v s).env = s.env := rfl

/-! ### `xfer` -/

@[simp] theorem xfer_busy (b : Byte) (s : State) : (xfer b s).busy = s.busy := rfl
@[simp] theorem xfer_cur (b : Byte) (s : State) : (xfer b s).cur = s.cur := rfl
@[simp] theorem xfer_result (b : Byte) (s : State) : (xfer b s).result = s.result := rfl
@[simp] theorem xfer_rx (b : Byte) (s : State) : (xfer b s).rx = s.rx := rfl
@[simp] theorem xfer_block (b : Byte) (s : State) : (xfer b s).block = s.block := rfl
@[simp] theorem xfer_xfer (b : Byte) (s : State) : (xfer b s).xfer = s.xfer := rfl
@[simp] theorem xfer_divreq (b : Byte) (s : State) : (xfer b s).divreq = s.divreq := rfl
@[simp] theorem xfer_cs (b : Byte) (s : State) : (xfer b s).cs = s.cs := rfl
@[simp] theorem xfer_div (b : Byte) (s : State) : (xfer b s).div = s.div := rfl
@[simp] theorem xfer_card (b : Byte) (s : State) : (xfer b s).card = s.card := rfl
@[simp] theorem xfer_i2cOpen (b : Byte) (s : State) : (xfer b s).i2cOpen = s.i2cOpen := rfl
@[simp] theorem xfer_playing (b : Byte) (s : State) : (xfer b s).playing = s.playing := rfl
@[simp] theorem xfer_tickLatch (b : Byte) (s : State) : (xfer b s).tickLatch = s.tickLatch := rfl
@[simp] theorem xfer_inHandler (b : Byte) (s : State) : (xfer b s).inHandler = s.inHandler := rfl
@[simp] theorem xfer_hsample (b : Byte) (s : State) : (xfer b s).hsample = s.hsample := rfl
@[simp] theorem xfer_hpos (b : Byte) (s : State) : (xfer b s).hpos = s.hpos := rfl
@[simp] theorem xfer_playIndex (b : Byte) (s : State) : (xfer b s).playIndex = s.playIndex := rfl
@[simp] theorem xfer_pending (b : Byte) (s : State) : (xfer b s).pending = s.pending := rfl
@[simp] theorem xfer_sem (b : Byte) (s : State) : (xfer b s).sem = s.sem := rfl
@[simp] theorem xfer_prod (b : Byte) (s : State) : (xfer b s).prod = s.prod := rfl
@[simp] theorem xfer_cursor (b : Byte) (s : State) : (xfer b s).cursor = s.cursor := rfl
@[simp] theorem xfer_underrun (b : Byte) (s : State) : (xfer b s).underrun = s.underrun := rfl
@[simp] theorem xfer_sigOverrun (b : Byte) (s : State) : (xfer b s).sigOverrun = s.sigOverrun := rfl
@[simp] theorem xfer_tickLost (b : Byte) (s : State) : (xfer b s).tickLost = s.tickLost := rfl
@[simp] theorem xfer_cmdLost (b : Byte) (s : State) : (xfer b s).cmdLost = s.cmdLost := rfl
@[simp] theorem xfer_refillErr (b : Byte) (s : State) : (xfer b s).refillErr = s.refillErr := rfl
@[simp] theorem xfer_rerr (b : Byte) (s : State) : (xfer b s).rerr = s.rerr := rfl
@[simp] theorem xfer_ring (b : Byte) (s : State) : (xfer b s).ring = s.ring := rfl
@[simp] theorem xfer_scratch (b : Byte) (s : State) : (xfer b s).scratch = s.scratch := rfl
@[simp] theorem xfer_history (b : Byte) (s : State) : (xfer b s).history = s.history ++ [.spi s.cs b (cardAnswer s)] := rfl
@[simp] theorem xfer_accessFault (b : Byte) (s : State) : (xfer b s).accessFault = s.accessFault := rfl
@[simp] theorem xfer_cfg (b : Byte) (s : State) : (xfer b s).cfg = s.cfg := rfl
@[simp] theorem xfer_env (b : Byte) (s : State) : (xfer b s).env = (takeCardAnswer s).env := rfl

/-! ### `recv` -/

@[simp] theorem recv_busy (s : State) : (recv s).busy = s.busy := rfl
@[simp] theorem recv_cur (s : State) : (recv s).cur = s.cur := rfl
@[simp] theorem recv_result (s : State) : (recv s).result = s.result := rfl
@[simp] theorem recv_rx (s : State) : (recv s).rx = s.rx := rfl
@[simp] theorem recv_block (s : State) : (recv s).block = s.block := rfl
@[simp] theorem recv_xfer (s : State) : (recv s).xfer = s.xfer := rfl
@[simp] theorem recv_divreq (s : State) : (recv s).divreq = s.divreq := rfl
@[simp] theorem recv_cs (s : State) : (recv s).cs = s.cs := rfl
@[simp] theorem recv_div (s : State) : (recv s).div = s.div := rfl
@[simp] theorem recv_card (s : State) : (recv s).card = s.card := rfl
@[simp] theorem recv_i2cOpen (s : State) : (recv s).i2cOpen = s.i2cOpen := rfl
@[simp] theorem recv_playing (s : State) : (recv s).playing = s.playing := rfl
@[simp] theorem recv_tickLatch (s : State) : (recv s).tickLatch = s.tickLatch := rfl
@[simp] theorem recv_inHandler (s : State) : (recv s).inHandler = s.inHandler := rfl
@[simp] theorem recv_hsample (s : State) : (recv s).hsample = s.hsample := rfl
@[simp] theorem recv_hpos (s : State) : (recv s).hpos = s.hpos := rfl
@[simp] theorem recv_playIndex (s : State) : (recv s).playIndex = s.playIndex := rfl
@[simp] theorem recv_pending (s : State) : (recv s).pending = s.pending := rfl
@[simp] theorem recv_sem (s : State) : (recv s).sem = s.sem := rfl
@[simp] theorem recv_prod (s : State) : (recv s).prod = s.prod := rfl
@[simp] theorem recv_cursor (s : State) : (recv s).cursor = s.cursor := rfl
@[simp] theorem recv_underrun (s : State) : (recv s).underrun = s.underrun := rfl
@[simp] theorem recv_sigOverrun (s : State) : (recv s).sigOverrun = s.sigOverrun := rfl
@[simp] theorem recv_tickLost (s : State) : (recv s).tickLost = s.tickLost := rfl
@[simp] theorem recv_cmdLost (s : State) : (recv s).cmdLost = s.cmdLost := rfl
@[simp] theorem recv_refillErr (s : State) : (recv s).refillErr = s.refillErr := rfl
@[simp] theorem recv_rerr (s : State) : (recv s).rerr = s.rerr := rfl
@[simp] theorem recv_ring (s : State) : (recv s).ring = s.ring := rfl
@[simp] theorem recv_scratch (s : State) : (recv s).scratch = s.scratch := rfl
@[simp] theorem recv_history (s : State) : (recv s).history = s.history ++ [.spi s.cs filler (cardAnswer s)] := rfl
@[simp] theorem recv_accessFault (s : State) : (recv s).accessFault = s.accessFault := rfl
@[simp] theorem recv_cfg (s : State) : (recv s).cfg = s.cfg := rfl
@[simp] theorem recv_env (s : State) : (recv s).env = (takeCardAnswer s).env := rfl

/-! ### `finish` -/

@[simp] theorem finish_busy (code : ResultCode) (s : State) : (finish code s).busy = false := rfl
@[simp] theorem finish_cur (code : ResultCode) (s : State) : (finish code s).cur = none := rfl
@[simp] theorem finish_result (code : ResultCode) (s : State) : (finish code s).result = code := rfl
@[simp] theorem finish_rx (code : ResultCode) (s : State) : (finish code s).rx = s.rx := rfl
@[simp] theorem finish_block (code : ResultCode) (s : State) : (finish code s).block = s.block := rfl
@[simp] theorem finish_xfer (code : ResultCode) (s : State) : (finish code s).xfer = s.xfer := rfl
@[simp] theorem finish_divreq (code : ResultCode) (s : State) : (finish code s).divreq = s.divreq := rfl
@[simp] theorem finish_cs (code : ResultCode) (s : State) : (finish code s).cs = s.cs := rfl
@[simp] theorem finish_div (code : ResultCode) (s : State) : (finish code s).div = s.div := rfl
@[simp] theorem finish_card (code : ResultCode) (s : State) : (finish code s).card = s.card := rfl
@[simp] theorem finish_i2cOpen (code : ResultCode) (s : State) : (finish code s).i2cOpen = s.i2cOpen := rfl
@[simp] theorem finish_playing (code : ResultCode) (s : State) : (finish code s).playing = s.playing := rfl
@[simp] theorem finish_tickLatch (code : ResultCode) (s : State) : (finish code s).tickLatch = s.tickLatch := rfl
@[simp] theorem finish_inHandler (code : ResultCode) (s : State) : (finish code s).inHandler = s.inHandler := rfl
@[simp] theorem finish_hsample (code : ResultCode) (s : State) : (finish code s).hsample = s.hsample := rfl
@[simp] theorem finish_hpos (code : ResultCode) (s : State) : (finish code s).hpos = s.hpos := rfl
@[simp] theorem finish_playIndex (code : ResultCode) (s : State) : (finish code s).playIndex = s.playIndex := rfl
@[simp] theorem finish_pending (code : ResultCode) (s : State) : (finish code s).pending = s.pending := rfl
@[simp] theorem finish_sem (code : ResultCode) (s : State) : (finish code s).sem = s.sem := rfl
@[simp] theorem finish_prod (code : ResultCode) (s : State) : (finish code s).prod = s.prod := rfl
@[simp] theorem finish_cursor (code : ResultCode) (s : State) : (finish code s).cursor = s.cursor := rfl
@[simp] theorem finish_underrun (code : ResultCode) (s : State) : (finish code s).underrun = s.underrun := rfl
@[simp] theorem finish_sigOverrun (code : ResultCode) (s : State) : (finish code s).sigOverrun = s.sigOverrun := rfl
@[simp] theorem finish_tickLost (code : ResultCode) (s : State) : (finish code s).tickLost = s.tickLost := rfl
@[simp] theorem finish_cmdLost (code : ResultCode) (s : State) : (finish code s).cmdLost = s.cmdLost := rfl
@[simp] theorem finish_refillErr (code : ResultCode) (s : State) : (finish code s).refillErr = s.refillErr := rfl
@[simp] theorem finish_rerr (code : ResultCode) (s : State) : (finish code s).rerr = s.rerr := rfl
@[simp] theorem finish_ring (code : ResultCode) (s : State) : (finish code s).ring = s.ring := rfl
@[simp] theorem finish_scratch (code : ResultCode) (s : State) : (finish code s).scratch = s.scratch := rfl
@[simp] theorem finish_history (code : ResultCode) (s : State) : (finish code s).history = s.history := rfl
@[simp] theorem finish_accessFault (code : ResultCode) (s : State) : (finish code s).accessFault = s.accessFault := rfl
@[simp] theorem finish_cfg (code : ResultCode) (s : State) : (finish code s).cfg = s.cfg := rfl
@[simp] theorem finish_env (code : ResultCode) (s : State) : (finish code s).env = s.env := rfl

/-! ### `setPos` -/

@[simp] theorem setPos_busy (p : CmdPos) (s : State) : (setPos p s).busy = s.busy := rfl
@[simp] theorem setPos_cur (p : CmdPos) (s : State) : (setPos p s).cur = s.cur.map (fun c => { c with pos := p }) := rfl
@[simp] theorem setPos_result (p : CmdPos) (s : State) : (setPos p s).result = s.result := rfl
@[simp] theorem setPos_rx (p : CmdPos) (s : State) : (setPos p s).rx = s.rx := rfl
@[simp] theorem setPos_block (p : CmdPos) (s : State) : (setPos p s).block = s.block := rfl
@[simp] theorem setPos_xfer (p : CmdPos) (s : State) : (setPos p s).xfer = s.xfer := rfl
@[simp] theorem setPos_divreq (p : CmdPos) (s : State) : (setPos p s).divreq = s.divreq := rfl
@[simp] theorem setPos_cs (p : CmdPos) (s : State) : (setPos p s).cs = s.cs := rfl
@[simp] theorem setPos_div (p : CmdPos) (s : State) : (setPos p s).div = s.div := rfl
@[simp] theorem setPos_card (p : CmdPos) (s : State) : (setPos p s).card = s.card := rfl
@[simp] theorem setPos_i2cOpen (p : CmdPos) (s : State) : (setPos p s).i2cOpen = s.i2cOpen := rfl
@[simp] theorem setPos_playing (p : CmdPos) (s : State) : (setPos p s).playing = s.playing := rfl
@[simp] theorem setPos_tickLatch (p : CmdPos) (s : State) : (setPos p s).tickLatch = s.tickLatch := rfl
@[simp] theorem setPos_inHandler (p : CmdPos) (s : State) : (setPos p s).inHandler = s.inHandler := rfl
@[simp] theorem setPos_hsample (p : CmdPos) (s : State) : (setPos p s).hsample = s.hsample := rfl
@[simp] theorem setPos_hpos (p : CmdPos) (s : State) : (setPos p s).hpos = s.hpos := rfl
@[simp] theorem setPos_playIndex (p : CmdPos) (s : State) : (setPos p s).playIndex = s.playIndex := rfl
@[simp] theorem setPos_pending (p : CmdPos) (s : State) : (setPos p s).pending = s.pending := rfl
@[simp] theorem setPos_sem (p : CmdPos) (s : State) : (setPos p s).sem = s.sem := rfl
@[simp] theorem setPos_prod (p : CmdPos) (s : State) : (setPos p s).prod = s.prod := rfl
@[simp] theorem setPos_cursor (p : CmdPos) (s : State) : (setPos p s).cursor = s.cursor := rfl
@[simp] theorem setPos_underrun (p : CmdPos) (s : State) : (setPos p s).underrun = s.underrun := rfl
@[simp] theorem setPos_sigOverrun (p : CmdPos) (s : State) : (setPos p s).sigOverrun = s.sigOverrun := rfl
@[simp] theorem setPos_tickLost (p : CmdPos) (s : State) : (setPos p s).tickLost = s.tickLost := rfl
@[simp] theorem setPos_cmdLost (p : CmdPos) (s : State) : (setPos p s).cmdLost = s.cmdLost := rfl
@[simp] theorem setPos_refillErr (p : CmdPos) (s : State) : (setPos p s).refillErr = s.refillErr := rfl
@[simp] theorem setPos_rerr (p : CmdPos) (s : State) : (setPos p s).rerr = s.rerr := rfl
@[simp] theorem setPos_ring (p : CmdPos) (s : State) : (setPos p s).ring = s.ring := rfl
@[simp] theorem setPos_scratch (p : CmdPos) (s : State) : (setPos p s).scratch = s.scratch := rfl
@[simp] theorem setPos_history (p : CmdPos) (s : State) : (setPos p s).history = s.history := rfl
@[simp] theorem setPos_accessFault (p : CmdPos) (s : State) : (setPos p s).accessFault = s.accessFault := rfl
@[simp] theorem setPos_cfg (p : CmdPos) (s : State) : (setPos p s).cfg = s.cfg := rfl
@[simp] theorem setPos_env (p : CmdPos) (s : State) : (setPos p s).env = s.env := rfl

/-! ### `clearFlags` -/

@[simp] theorem clearFlags_busy (s : State) : (clearFlags s).busy = s.busy := rfl
@[simp] theorem clearFlags_cur (s : State) : (clearFlags s).cur = s.cur := rfl
@[simp] theorem clearFlags_result (s : State) : (clearFlags s).result = s.result := rfl
@[simp] theorem clearFlags_rx (s : State) : (clearFlags s).rx = s.rx := rfl
@[simp] theorem clearFlags_block (s : State) : (clearFlags s).block = s.block := rfl
@[simp] theorem clearFlags_xfer (s : State) : (clearFlags s).xfer = s.xfer := rfl
@[simp] theorem clearFlags_divreq (s : State) : (clearFlags s).divreq = s.divreq := rfl
@[simp] theorem clearFlags_cs (s : State) : (clearFlags s).cs = s.cs := rfl
@[simp] theorem clearFlags_div (s : State) : (clearFlags s).div = s.div := rfl
@[simp] theorem clearFlags_card (s : State) : (clearFlags s).card = s.card := rfl
@[simp] theorem clearFlags_i2cOpen (s : State) : (clearFlags s).i2cOpen = s.i2cOpen := rfl
@[simp] theorem clearFlags_playing (s : State) : (clearFlags s).playing = s.playing := rfl
@[simp] theorem clearFlags_tickLatch (s : State) : (clearFlags s).tickLatch = s.tickLatch := rfl
@[simp] theorem clearFlags_inHandler (s : State) : (clearFlags s).inHandler = s.inHandler := rfl
@[simp] theorem clearFlags_hsample (s : State) : (clearFlags s).hsample = s.hsample := rfl
@[simp] theorem clearFlags_hpos (s : State) : (clearFlags s).hpos = s.hpos := rfl
@[simp] theorem clearFlags_playIndex (s : State) : (clearFlags s).playIndex = s.playIndex := rfl
@[simp] theorem clearFlags_pending (s : State) : (clearFlags s).pending = s.pending := rfl
@[simp] theorem clearFlags_sem (s : State) : (clearFlags s).sem = s.sem := rfl
@[simp] theorem clearFlags_prod (s : State) : (clearFlags s).prod = s.prod := rfl
@[simp] theorem clearFlags_cursor (s : State) : (clearFlags s).cursor = s.cursor := rfl
@[simp] theorem clearFlags_underrun (s : State) : (clearFlags s).underrun = false := rfl
@[simp] theorem clearFlags_sigOverrun (s : State) : (clearFlags s).sigOverrun = false := rfl
@[simp] theorem clearFlags_tickLost (s : State) : (clearFlags s).tickLost = false := rfl
@[simp] theorem clearFlags_cmdLost (s : State) : (clearFlags s).cmdLost = false := rfl
@[simp] theorem clearFlags_refillErr (s : State) : (clearFlags s).refillErr = false := rfl
@[simp] theorem clearFlags_rerr (s : State) : (clearFlags s).rerr = .ok := rfl
@[simp] theorem clearFlags_ring (s : State) : (clearFlags s).ring = s.ring := rfl
@[simp] theorem clearFlags_scratch (s : State) : (clearFlags s).scratch = s.scratch := rfl
@[simp] theorem clearFlags_history (s : State) : (clearFlags s).history = s.history := rfl
@[simp] theorem clearFlags_accessFault (s : State) : (clearFlags s).accessFault = s.accessFault := rfl
@[simp] theorem clearFlags_cfg (s : State) : (clearFlags s).cfg = s.cfg := rfl
@[simp] theorem clearFlags_env (s : State) : (clearFlags s).env = s.env := rfl

/-! ### `refillError` -/

@[simp] theorem refillError_busy (code : ResultCode) (s : State) : (refillError code s).busy = s.busy := rfl
@[simp] theorem refillError_cur (code : ResultCode) (s : State) : (refillError code s).cur = s.cur := rfl
@[simp] theorem refillError_result (code : ResultCode) (s : State) : (refillError code s).result = s.result := rfl
@[simp] theorem refillError_rx (code : ResultCode) (s : State) : (refillError code s).rx = s.rx := rfl
@[simp] theorem refillError_block (code : ResultCode) (s : State) : (refillError code s).block = s.block := rfl
@[simp] theorem refillError_xfer (code : ResultCode) (s : State) : (refillError code s).xfer = s.xfer := rfl
@[simp] theorem refillError_divreq (code : ResultCode) (s : State) : (refillError code s).divreq = s.divreq := rfl
@[simp] theorem refillError_cs (code : ResultCode) (s : State) : (refillError code s).cs = s.cs := rfl
@[simp] theorem refillError_div (code : ResultCode) (s : State) : (refillError code s).div = s.div := rfl
@[simp] theorem refillError_card (code : ResultCode) (s : State) : (refillError code s).card = s.card := rfl
@[simp] theorem refillError_i2cOpen (code : ResultCode) (s : State) : (refillError code s).i2cOpen = s.i2cOpen := rfl
@[simp] theorem refillError_playing (code : ResultCode) (s : State) : (refillError code s).playing = s.playing := rfl
@[simp] theorem refillError_tickLatch (code : ResultCode) (s : State) : (refillError code s).tickLatch = s.tickLatch := rfl
@[simp] theorem refillError_inHandler (code : ResultCode) (s : State) : (refillError code s).inHandler = s.inHandler := rfl
@[simp] theorem refillError_hsample (code : ResultCode) (s : State) : (refillError code s).hsample = s.hsample := rfl
@[simp] theorem refillError_hpos (code : ResultCode) (s : State) : (refillError code s).hpos = s.hpos := rfl
@[simp] theorem refillError_playIndex (code : ResultCode) (s : State) : (refillError code s).playIndex = s.playIndex := rfl
@[simp] theorem refillError_pending (code : ResultCode) (s : State) : (refillError code s).pending = s.pending := rfl
@[simp] theorem refillError_sem (code : ResultCode) (s : State) : (refillError code s).sem = s.sem := rfl
@[simp] theorem refillError_prod (code : ResultCode) (s : State) : (refillError code s).prod = s.prod := rfl
@[simp] theorem refillError_cursor (code : ResultCode) (s : State) : (refillError code s).cursor = s.cursor := rfl
@[simp] theorem refillError_underrun (code : ResultCode) (s : State) : (refillError code s).underrun = s.underrun := rfl
@[simp] theorem refillError_sigOverrun (code : ResultCode) (s : State) : (refillError code s).sigOverrun = s.sigOverrun := rfl
@[simp] theorem refillError_tickLost (code : ResultCode) (s : State) : (refillError code s).tickLost = s.tickLost := rfl
@[simp] theorem refillError_cmdLost (code : ResultCode) (s : State) : (refillError code s).cmdLost = s.cmdLost := rfl
@[simp] theorem refillError_refillErr (code : ResultCode) (s : State) : (refillError code s).refillErr = true := rfl
@[simp] theorem refillError_rerr (code : ResultCode) (s : State) : (refillError code s).rerr = code := rfl
@[simp] theorem refillError_ring (code : ResultCode) (s : State) : (refillError code s).ring = s.ring := rfl
@[simp] theorem refillError_scratch (code : ResultCode) (s : State) : (refillError code s).scratch = s.scratch := rfl
@[simp] theorem refillError_history (code : ResultCode) (s : State) : (refillError code s).history = s.history := rfl
@[simp] theorem refillError_accessFault (code : ResultCode) (s : State) : (refillError code s).accessFault = s.accessFault := rfl
@[simp] theorem refillError_cfg (code : ResultCode) (s : State) : (refillError code s).cfg = s.cfg := rfl
@[simp] theorem refillError_env (code : ResultCode) (s : State) : (refillError code s).env = s.env := rfl

/-! ### `advance` -/

@[simp] theorem advance_busy (s : State) : (s.advance).busy = s.busy := rfl
@[simp] theorem advance_cur (s : State) : (s.advance).cur = s.cur := rfl
@[simp] theorem advance_result (s : State) : (s.advance).result = s.result := rfl
@[simp] theorem advance_rx (s : State) : (s.advance).rx = s.rx := rfl
@[simp] theorem advance_block (s : State) : (s.advance).block = s.block := rfl
@[simp] theorem advance_xfer (s : State) : (s.advance).xfer = s.xfer := rfl
@[simp] theorem advance_divreq (s : State) : (s.advance).divreq = s.divreq := rfl
@[simp] theorem advance_cs (s : State) : (s.advance).cs = s.cs := rfl
@[simp] theorem advance_div (s : State) : (s.advance).div = s.div := rfl
@[simp] theorem advance_card (s : State) : (s.advance).card = s.card := rfl
@[simp] theorem advance_i2cOpen (s : State) : (s.advance).i2cOpen = s.i2cOpen := rfl
@[simp] theorem advance_playing (s : State) : (s.advance).playing = s.playing := rfl
@[simp] theorem advance_tickLatch (s : State) : (s.advance).tickLatch = s.tickLatch := rfl
@[simp] theorem advance_inHandler (s : State) : (s.advance).inHandler = s.inHandler := rfl
@[simp] theorem advance_hsample (s : State) : (s.advance).hsample = s.hsample := rfl
@[simp] theorem advance_hpos (s : State) : (s.advance).hpos = s.hpos := rfl
@[simp] theorem advance_playIndex (s : State) : (s.advance).playIndex = s.playIndex := rfl
@[simp] theorem advance_pending (s : State) : (s.advance).pending = s.pending := rfl
@[simp] theorem advance_sem (s : State) : (s.advance).sem = s.sem := rfl
@[simp] theorem advance_prod (s : State) : (s.advance).prod = s.prod := rfl
@[simp] theorem advance_cursor (s : State) : (s.advance).cursor = s.cursor := rfl
@[simp] theorem advance_underrun (s : State) : (s.advance).underrun = s.underrun := rfl
@[simp] theorem advance_sigOverrun (s : State) : (s.advance).sigOverrun = s.sigOverrun := rfl
@[simp] theorem advance_tickLost (s : State) : (s.advance).tickLost = s.tickLost := rfl
@[simp] theorem advance_cmdLost (s : State) : (s.advance).cmdLost = s.cmdLost := rfl
@[simp] theorem advance_refillErr (s : State) : (s.advance).refillErr = s.refillErr := rfl
@[simp] theorem advance_rerr (s : State) : (s.advance).rerr = s.rerr := rfl
@[simp] theorem advance_ring (s : State) : (s.advance).ring = s.ring := rfl
@[simp] theorem advance_scratch (s : State) : (s.advance).scratch = s.scratch := rfl
@[simp] theorem advance_history (s : State) : (s.advance).history = s.history := rfl
@[simp] theorem advance_accessFault (s : State) : (s.advance).accessFault = s.accessFault := rfl
@[simp] theorem advance_cfg (s : State) : (s.advance).cfg = s.cfg := rfl
@[simp] theorem advance_env (s : State) : (s.advance).env = { s.env with sched := s.env.sched.tail, stepCount := s.env.stepCount + 1 } := rfl

end Sys2Proof.Machine
end

