-- ==== Sys2Proof/Laws/Ops.lean ====
section
/-! SUPPORT. One lemma for each shared operation that says all it can do, to be cited instead of unfolding it. -/

namespace Sys2Proof.Machine

/-! ### Commands -/

theorem onCommand_eq {i : Instr} {s : State} {c : Command} {body : Command → Outcome}
    (hc : s.cur = some c) (hr : taskReady s = true) (hi : c.instr = .ok i) : onCommand i s body = body c := by
  simp [onCommand, hc, hr, hi]

/-- A step on a command is the body's, for the command under way and an engine that is not preempted. -/
theorem onCommand_next {i : Instr} {s t : State} {body : Command → Outcome} (h : onCommand i s body = .next t) :
    ∃ c, s.cur = some c ∧ taskReady s = true ∧ c.instr = .ok i ∧ body c = .next t := by
  unfold onCommand at h
  split at h
  · rename_i c hc
    split at h
    · rename_i hg
      exact ⟨c, hc, hg.1, hg.2, h⟩
    · cases h
  · cases h

theorem onCommand_not_ready {i : Instr} {s : State} {body : Command → Outcome} (h : taskReady s = false) :
    onCommand i s body = .refused .noStep := by
  unfold onCommand
  split <;> simp [h]

theorem inDecodeStep_eq {i : Instr} {s : State} {c : Command} {effect : Command → State} (hc : s.cur = some c)
    (hr : taskReady s = true) (hi : c.instr = .ok i) (hp : c.pos = .decode) :
    inDecodeStep i s effect = .next (effect c) := by
  simp [inDecodeStep, onCommand_eq hc hr hi, hp]

theorem inDecodeStep_next {i : Instr} {s t : State} {effect : Command → State} (h : inDecodeStep i s effect = .next t) :
    ∃ c, s.cur = some c ∧ taskReady s = true ∧ c.instr = .ok i ∧ c.pos = .decode ∧ t = effect c := by
  obtain ⟨c, hc, hr, hi, hb⟩ := onCommand_next h
  split at hb
  · rename_i hp
    exact ⟨c, hc, hr, hi, hp, by cases hb; rfl⟩
  · cases hb

/-- The instruction of an accepted command whose opcode is in the map of R301. -/
theorem Command.instr_eq {c : Command} {i : Instr} (hr : c.reserved = 0) (hi : decodeOpcode c.opc c.data8 = some i) :
    c.instr = .ok i := by
  simp [Command.instr, decodeFields, hr, hi]

theorem unlessSpiBusy_cases (s s' : State) :
    (spiBusy s = true ∧ unlessSpiBusy s s' = finish .errBusy s) ∨ (spiBusy s = false ∧ unlessSpiBusy s s' = s') := by
  cases h : spiBusy s <;> simp [unlessSpiBusy, h]

theorem spiBusy_eq_false {s : State} : spiBusy s = false ↔ s.playing = false ∧ s.prod = .waiting ∧ s.sem = 0 := by
  unfold spiBusy
  cases s.prod <;> cases s.playing <;> simp [Producer.active]

theorem taskReady_eq_true {s : State} :
    taskReady s = true ↔ s.inHandler = false ∧ (s.playing = true → s.tickLatch = false) := by
  unfold taskReady
  cases s.inHandler <;> cases s.playing <;> cases s.tickLatch <;> simp

/-! ### I2C primitives -/

theorem i2cStep_eq_some {prim : I2cPrim} {s t : State} :
    i2cStep prim s = some t ↔ ∃ ack, i2cAnswer s = .completes ack ∧ t = completePrim prim ack (takeI2cAnswer s) := by
  unfold i2cStep
  cases i2cAnswer s <;> simp [eq_comm]

/-- Whether a transaction is open after a primitive (R500). -/
def openAfter : I2cPrim → Bool → Bool
  | .start, _ => true
  | .write _, b => b
  | .stop, _ => false

/-- The event of a primitive (R23, R500). -/
def primEvent : I2cPrim → Bool → Event
  | .start, _ => .i2cStart
  | .write b, ack => .i2cByte b ack
  | .stop, _ => .i2cStop

/-- A completion writes `I2C_OPEN` and records one event, and nothing else (R500). -/
theorem completePrim_eq (prim : I2cPrim) (ack : Bool) (s : State) :
    completePrim prim ack s =
      { s with i2cOpen := openAfter prim s.i2cOpen, history := s.history ++ [primEvent prim ack] } := by
  cases prim <;> rfl

/-! ### The refill signal and the handler -/

/-- All that a signal writes (R545, R552). -/
theorem signal_eq (h : Half) (s : State) :
    signal h s =
      { s with
        pending := some h
        sem := s.sem + 1
        sigOverrun := s.sigOverrun || s.pending.isSome
        history := s.history ++ ((if s.pending.isSome then [.hazard .signalOverrun] else []) ++ [.signal h]) } := by
  cases hp : s.pending <;> simp [signal, noteSignalOverrun, record, hp]

/-- All that a handler's entry writes (R536, R551). -/
theorem enterHandler_eq (s : State) :
    enterHandler s =
      { s with
        tickLatch := false
        inHandler := true
        hsample := readByte s.ring s.playIndex.toNat
        hpos := 0
        underrun := s.underrun || underrunNow s
        history := s.history ++ (if underrunNow s then [.hazard .underrun] else []) } := by
  cases hu : underrunNow s <;> simp [enterHandler, noteUnderrun, record, hu]

/-! ### Reads -/

/-- All that storing a received byte writes (R466, R469). -/
theorem storeInRange_eq (d : Dest) (offset length k : Nat) (b : Byte) (s : State) :
    storeInRange d offset length k b s =
      { s with
        ring := if d = .ring ∧ offset ≤ k ∧ k < offset + length then writeByte s.ring k b else s.ring
        scratch := if d = .scratch ∧ offset ≤ k ∧ k < offset + length then writeByte s.scratch k b else s.scratch } := by
  unfold storeInRange storeByte
  cases d <;> by_cases h : offset ≤ k ∧ k < offset + length <;> simp [h]

/-- The memory a read leaves: at data position `k` in range the destination has the card's answer at index `k`. -/
def readMemory (d d' : Dest) (offset length : Nat) (p : ReadPos) (b : Byte) (m : Memory) : Memory :=
  match p with
  | .data k => if d = d' ∧ offset ≤ k.val ∧ k.val < offset + length then writeByte m k.val b else m
  | .command _ => m
  | .token _ => m
  | .check _ => m

/-- Whether the card is selected after the transfer at position `p` (R466). -/
def readSelects (p : ReadPos) (cs : Bool) : Bool :=
  match p with
  | .command (.frame k) => if k = 0 then true else cs
  | .command (.poll _) => cs
  | .token _ => cs
  | .data _ => cs
  | .check _ => cs

/-- The byte a read sends at position `p` (R450, R466). -/
def readSends (addr : Word) (p : ReadPos) : Byte :=
  match p with
  | .command (.frame k) => frameByte (readBlockFrame addr) k
  | .command (.poll _) => filler
  | .token _ => filler
  | .data _ => filler
  | .check _ => filler

/-- The selection event of a read at position `p` (R466). -/
def readSelectEvent (p : ReadPos) : List Event :=
  match p with
  | .command (.frame k) => if k = 0 then [.cs true] else []
  | .command (.poll _) => []
  | .token _ => []
  | .data _ => []
  | .check _ => []

/-- All that one transfer of a read writes (R466). -/
theorem readTransfer_eq (d : Dest) (offset length : Nat) (addr : Word) (p : ReadPos) (s : State) :
    readTransfer d offset length addr p s =
      { s with
        cs := readSelects p s.cs
        ring := readMemory d .ring offset length p (cardAnswer s) s.ring
        scratch := readMemory d .scratch offset length p (cardAnswer s) s.scratch
        history := s.history ++ (readSelectEvent p ++ [.spi (readSelects p s.cs) (readSends addr p) (cardAnswer s)])
        env := (takeCardAnswer s).env } := by
  cases p with
  | command p =>
    cases p with
    | frame k =>
      by_cases hk : k = 0 <;>
        simp [readTransfer, hk, xfer, selectCard, record, takeCardAnswer, cardAnswer, readSelects, readMemory,
          readSelectEvent, readSends]
    | poll n =>
      simp [readTransfer, recv, xfer, record, takeCardAnswer, readSelects, readMemory, readSelectEvent, readSends]
  | token n => simp [readTransfer, recv, xfer, record, takeCardAnswer, readSelects, readMemory, readSelectEvent, readSends]
  | data k =>
    simp only [readTransfer, storeInRange_eq]
    cases d <;>
      simp [recv, xfer, record, takeCardAnswer, readSelects, readMemory, readSelectEvent, readSends]
  | check k => simp [readTransfer, recv, xfer, record, takeCardAnswer, readSelects, readMemory, readSelectEvent, readSends]

/-- Whether a read is over. -/
def ReadNext.isDone : ReadNext → Bool
  | .go _ => false
  | .done _ => true

/-- One step of a read: its transfer, and the deselection when it is over (R466). -/
theorem readStep_eq (d : Dest) (offset length : Nat) (r : ReadSeq) (s : State) :
    readStep d offset length r s =
      (readNext s.cfg r.pos (cardAnswer s),
        if (readNext s.cfg r.pos (cardAnswer s)).isDone then selectCard false (readTransfer d offset length r.addr r.pos s)
        else readTransfer d offset length r.addr r.pos s) := by
  unfold readStep
  cases h : readNext s.cfg r.pos (cardAnswer s) <;> simp [ReadNext.isDone]

/-! ### The schedule -/

/-- A step settles to the operation's next state, or passes when the agent has no step. -/
theorem settle_next {s t : State} {o : Outcome} (h : settle s o = .next t) :
    (∃ u, o = .next u ∧ t = u.advance) ∨ (o = .refused .noStep ∧ t = s.advance) := by
  unfold settle at h
  split at h
  · cases h
    exact .inl ⟨_, rfl, rfl⟩
  · cases h
  · split at h <;> cases h
    rename_i hr
    exact .inr ⟨by rw [hr], rfl⟩

/-- Nothing but the count of steps and the schedule changes between two steps. -/
theorem advance_eq (s : State) : s.advance = { s with env := s.advance.env } := rfl

end Sys2Proof.Machine
end

