-- ==== Sys2Proof/Laws/PerInstr.lean ====
section
/-! SUPPORT. One lemma per instruction: its encoding is the row of spec/opcode_table.json, and the decoder reads it back. -/

namespace Sys2Proof.Laws.TableRow

/-- Length, match value and mask of the row of the opcode table (R301, R303, R311); an internal operation has none. -/
def row : Instr → Option (Nat × Nat × Nat)
  | .nop => some (32, 0x00000000, 0xFFFF00FF)
  | .spiXfer _ => some (32, 0x00000001, 0xFFFF00FF)
  | .spiSend _ => some (32, 0x00000002, 0xFFFF00FF)
  | .spiRecv => some (32, 0x00000003, 0xFFFF00FF)
  | .spiSetDiv => some (32, 0x00000004, 0xFFFF00FF)
  | .spiSelect => some (32, 0x00000005, 0xFFFF00FF)
  | .spiDeselect => some (32, 0x00000006, 0xFFFF00FF)
  | .sdInit => some (32, 0x00000010, 0xFFFF00FF)
  | .sdRead => some (32, 0x00000011, 0xFFFF00FF)
  | .i2cStart => some (32, 0x00000020, 0xFFFF00FF)
  | .i2cWrite _ => some (32, 0x00000021, 0xFFFF00FF)
  | .i2cStop => some (32, 0x00000022, 0xFFFF00FF)
  | .dacWrite _ => some (32, 0x00000023, 0xFFFF00FF)
  | .pbStart => some (32, 0x00000030, 0xFFFF00FF)
  | .pbStop => some (32, 0x00000031, 0xFFFF00FF)
  | .clrFlags => some (32, 0x0000003F, 0xFFFF00FF)
  | .tick => none
  | .refill => none
  | .goIdleState => some (48, 0x400000000095, 0xFFFFFFFFFFFF)
  | .sendIfCond => some (48, 0x48000001AA87, 0xFFFFFFFFFFFF)
  | .appCmd => some (48, 0x7700000000FF, 0xFFFFFFFFFFFF)
  | .sendOpCond => some (48, 0x6940000000FF, 0xFFFFFFFFFFFF)
  | .readOcr => some (48, 0x7A00000000FF, 0xFFFFFFFFFFFF)
  | .readSingleBlock _ => some (48, 0x5100000000FF, 0xFF00000000FF)

/-- The bits of a code, as the table numbers them (R303). -/
def bits : Code → Nat
  | .command w => w.toNat
  | .frame f => f.toNat

/-- The encoding of `i` has the fixed bits of its row, and is read back as `i`; an internal operation has no encoding. -/
def Statement (i : Instr) : Prop :=
  match row i with
  | none => encode i = none
  | some (n, value, mask) =>
    ∃ c, encode i = some c ∧ bits c &&& mask = value ∧ decodeTableWord n (bits c) = some i

theorem nop : Statement .nop := ⟨_, rfl, by decide, by decide⟩

theorem spiXfer (data8 : Byte) : Statement (.spiXfer data8) :=
  ⟨_, rfl, by revert data8; decide, by revert data8; decide⟩

theorem spiSend (data8 : Byte) : Statement (.spiSend data8) :=
  ⟨_, rfl, by revert data8; decide, by revert data8; decide⟩

theorem spiRecv : Statement .spiRecv := ⟨_, rfl, by decide, by decide⟩

theorem spiSetDiv : Statement .spiSetDiv := ⟨_, rfl, by decide, by decide⟩

theorem spiSelect : Statement .spiSelect := ⟨_, rfl, by decide, by decide⟩

theorem spiDeselect : Statement .spiDeselect := ⟨_, rfl, by decide, by decide⟩

theorem sdInit : Statement .sdInit := ⟨_, rfl, by decide, by decide⟩

theorem sdRead : Statement .sdRead := ⟨_, rfl, by decide, by decide⟩

theorem i2cStart : Statement .i2cStart := ⟨_, rfl, by decide, by decide⟩

theorem i2cWrite (data8 : Byte) : Statement (.i2cWrite data8) :=
  ⟨_, rfl, by revert data8; decide, by revert data8; decide⟩

theorem i2cStop : Statement .i2cStop := ⟨_, rfl, by decide, by decide⟩

theorem dacWrite (data8 : Byte) : Statement (.dacWrite data8) :=
  ⟨_, rfl, by revert data8; decide, by revert data8; decide⟩

theorem pbStart : Statement .pbStart := ⟨_, rfl, by decide, by decide⟩

theorem pbStop : Statement .pbStop := ⟨_, rfl, by decide, by decide⟩

theorem clrFlags : Statement .clrFlags := ⟨_, rfl, by decide, by decide⟩

theorem tick : Statement .tick := rfl

theorem refill : Statement .refill := rfl

theorem goIdleState : Statement .goIdleState := ⟨_, rfl, by decide, by decide⟩

theorem sendIfCond : Statement .sendIfCond := ⟨_, rfl, by decide, by decide⟩

theorem appCmd : Statement .appCmd := ⟨_, rfl, by decide, by decide⟩

theorem sendOpCond : Statement .sendOpCond := ⟨_, rfl, by decide, by decide⟩

theorem readOcr : Statement .readOcr := ⟨_, rfl, by decide, by decide⟩

/-- The argument of a READ_SINGLE_BLOCK frame is the address it was made with. -/
theorem frameArg_readBlockFrame (addr : Word) : frameArg (readBlockFrame addr) = addr := by
  ext i hi
  simp only [frameArg, readBlockFrame, sdFrame, BitVec.getElem_extractLsb', BitVec.getLsbD_append]
  rw [if_neg (by omega), if_pos (by omega), Nat.add_sub_cancel_left, BitVec.getLsbD_eq_getElem hi]

/-- Outside its argument, every READ_SINGLE_BLOCK frame has the bits of the table's row. -/
theorem readBlockFrame_fixed (addr : Word) :
    readBlockFrame addr &&& 0xFF00000000FF#48 = 0x5100000000FF#48 := by
  ext i hi
  simp only [readBlockFrame, sdFrame, BitVec.getElem_and, BitVec.getElem_append]
  interval_cases i <;> simp [otherCrc]

/-- No other frame of the block has those bits. -/
theorem readBlockFrame_ne (addr : Word) (f : FrameWord) (h : f &&& 0xFF00000000FF#48 ≠ 0x5100000000FF#48) :
    readBlockFrame addr ≠ f := fun e => h (e ▸ readBlockFrame_fixed addr)

theorem decodeFrame_readBlockFrame (addr : Word) :
    decodeFrame (readBlockFrame addr) = .ok (.readSingleBlock addr) := by
  unfold decodeFrame
  rw [if_neg (readBlockFrame_ne _ _ (by decide)), if_neg (readBlockFrame_ne _ _ (by decide)),
    if_neg (readBlockFrame_ne _ _ (by decide)), if_neg (readBlockFrame_ne _ _ (by decide)),
    if_neg (readBlockFrame_ne _ _ (by decide)), frameArg_readBlockFrame, if_pos rfl]

theorem readSingleBlock (addr : Word) : Statement (.readSingleBlock addr) := by
  refine ⟨_, rfl, congrArg BitVec.toNat (readBlockFrame_fixed addr), ?_⟩
  simp [decodeTableWord, tableCode, bits, decode, decodeFrame_readBlockFrame, Except.toOption]

end Sys2Proof.Laws.TableRow
end

