-- ==== Sys2Proof/Laws/Steps.lean ====
section
/-! SUPPORT. What a step can do, said once: by an agent, by a command at each position, by the producer, by the consumer.
Every invariant is a case analysis over these. -/

namespace Sys2Proof.Machine

/-- All that a step of the command engine on the command `c` can come to, with what its checks have made sure of. -/
inductive CommandEffect (c : Command) (s : State) : State → Prop
  | ends (code : ResultCode) : c.pos = .decode → CommandEffect c s (finish code s)
  | clears : c.pos = .decode → c.instr = .ok .clrFlags → CommandEffect c s (finish .ok (clearFlags s))
  | sends (b : Byte) : c.pos = .decode → spiBusy s = false → CommandEffect c s (finish .ok (xfer b s))
  | receives (b : Byte) : c.pos = .decode → spiBusy s = false →
      CommandEffect c s (finish .ok { xfer b s with rx := cardAnswer s })
  | setsDivisor (d : Short) : c.pos = .decode → spiBusy s = false →
      CommandEffect c s (finish .ok { s with div := nearestOf s.cfg.supportedDivisors d })
  | selects (v : Bool) : c.pos = .decode → spiBusy s = false → CommandEffect c s (finish .ok (selectCard v s))
  | startsInit : c.pos = .decode → spiBusy s = false → s.card = .uninitialized →
      CommandEffect c s
        (wakeStep 0 (selectCard false { s with div := nearestOf s.cfg.supportedDivisors s.cfg.slowDivisor }))
  | startsRead (addr : Word) : c.pos = .decode → spiBusy s = false → s.card.ready = true →
      outOfRange c.offset c.length = false →
      CommandEffect c s (commandReadStep c { addr := addr, pos := .command (.frame 0) } s)
  | waitsForPrim : c.pos = .decode → s.playing = false → CommandEffect c s (setPos .i2c s)
  | startsFrame : c.pos = .decode → s.playing = false → s.i2cOpen = false → CommandEffect c s (setPos (.dac 0) s)
  | startsPlayback : c.pos = .decode → s.i2cOpen = false → s.card.ready = true →
      CommandEffect c s (finish .ok { s with playing := true })
  | stopsPlayback : c.pos = .decode → s.playing = true →
      CommandEffect c s (setPos (.dac 0) { s with playing := false, tickLatch := false })
  | wakes (k : Fin 10) : c.pos = .wake k → CommandEffect c s (wakeStep k s)
  | inits (p : InitPos) : c.pos = .init p → CommandEffect c s (initStep p s)
  | reads (r : ReadSeq) : c.pos = .read r → CommandEffect c s (commandReadStep c r s)
  | completesPrim (prim : I2cPrim) (ack : Bool) : c.pos = .i2c → i2cAnswer s = .completes ack →
      CommandEffect c s (finish .ok (completePrim prim ack (takeI2cAnswer s)))
  | completesFramePrim (v : Byte) (k : Fin 6) (prim : I2cPrim) (ack : Bool) : c.pos = .dac k →
      (dacFrame s.cfg v)[k.val]? = some prim → i2cAnswer s = .completes ack →
      CommandEffect c s (afterDacPrim k (completePrim prim ack (takeI2cAnswer s)))

/-- All that a step of the producer can come to. -/
inductive ProducerEffect (s : State) : State → Prop
  | wakes : s.prod = .waiting → 0 < s.sem → spiRunning s = false → ProducerEffect s (refillWake s)
  | fills (h : Half) (r : ReadSeq) : s.prod = .filling h r → ProducerEffect s (producerReadStep h r s)

/-- All that a step of the consumer can come to. -/
inductive ConsumerEffect (s : State) : State → Prop
  | enters : s.inHandler = false → s.playing = true → s.tickLatch = true → s.playIndex.toNat < ringSize →
      ConsumerEffect s (enterHandler s)
  | completes (prim : I2cPrim) (ack : Bool) : s.inHandler = true →
      (dacFrame s.cfg s.hsample)[s.hpos.val]? = some prim → i2cAnswer s = .completes ack →
      ConsumerEffect s (handlerAdvance (completePrim prim ack (takeI2cAnswer s)))

theorem commandDacStep_next {v : Byte} {k : Fin 6} {s t : State} (h : commandDacStep v k s = .next t) :
    ∃ prim ack, (dacFrame s.cfg v)[k.val]? = some prim ∧ i2cAnswer s = .completes ack ∧
      t = afterDacPrim k (completePrim prim ack (takeI2cAnswer s)) := by
  unfold commandDacStep at h
  split at h
  · rename_i prim hp
    split at h
    · rename_i u hu
      obtain ⟨ack, ha, rfl⟩ := i2cStep_eq_some.1 hu
      cases h
      exact ⟨prim, ack, hp, ha, rfl⟩
    · cases h
  · cases h

theorem singlePrim_next {i : Instr} {needs : Bool} {prim : I2cPrim} {s t : State}
    (h : singlePrim i needs prim s = .next t) :
    ∃ c, s.cur = some c ∧ taskReady s = true ∧ c.instr = .ok i ∧
      ((c.pos = .decode ∧ t = i2cDecode needs .i2c s) ∨
        (c.pos = .i2c ∧ ∃ ack, i2cAnswer s = .completes ack ∧
          t = finish .ok (completePrim prim ack (takeI2cAnswer s)))) := by
  obtain ⟨c, hc, hr, hi, hb⟩ := onCommand_next h
  refine ⟨c, hc, hr, hi, ?_⟩
  split at hb
  · rename_i hp
    cases hb
    exact .inl ⟨hp, rfl⟩
  · rename_i hp
    refine .inr ⟨hp, ?_⟩
    unfold singlePrimStep at hb
    split at hb
    · rename_i u hu
      obtain ⟨ack, ha, rfl⟩ := i2cStep_eq_some.1 hu
      cases hb
      exact ⟨ack, ha, rfl⟩
    · cases hb
  all_goals cases hb

theorem i2cDecode_effect {needs : Bool} {p : CmdPos} {c : Command} {s : State} (hd : c.pos = .decode)
    (hp : s.playing = false → s.i2cOpen = needs → CommandEffect c s (setPos p s)) :
    CommandEffect c s (i2cDecode needs p s) := by
  unfold i2cDecode i2cBusy
  split
  · exact .ends _ hd
  · rename_i hpl
    split
    · rename_i ho
      exact hp (by simpa using hpl) ho
    · exact .ends _ hd

theorem commandReadBlock_next {addr : Word} {s t : State} (h : commandReadBlock addr s = .next t) :
    ∃ c r, s.cur = some c ∧ c.pos = .read r ∧ r.addr = addr ∧ t = commandReadStep c r s := by
  unfold commandReadBlock at h
  split at h
  · rename_i c hc
    split at h
    · rename_i r hp
      split at h
      · rename_i ha
        cases h
        exact ⟨c, r, hc, hp, ha, rfl⟩
      · cases h
    all_goals cases h
  · cases h

theorem producerReadBlock_next {addr : Word} {s t : State} (h : producerReadBlock addr s = .next t) :
    ∃ hf r, s.prod = .filling hf r ∧ r.addr = addr ∧ t = producerReadStep hf r s := by
  unfold producerReadBlock at h
  split at h
  · rename_i hf r hp
    split at h
    · rename_i ha
      cases h
      exact ⟨hf, r, hp, ha, rfl⟩
    · cases h
  · cases h

theorem onInitWire_next {i : Instr} {s t : State} (h : onInitWire i s = .next t) :
    ∃ c p, s.cur = some c ∧ taskReady s = true ∧ c.pos = .init p ∧ p.instr = i ∧ t = initStep p s := by
  unfold onInitWire at h
  split at h
  · rename_i c hc
    split at h
    · rename_i p hp
      split at h
      · rename_i hg
        cases h
        exact ⟨c, p, hc, hg.1, hp, hg.2, rfl⟩
      · cases h
    all_goals cases h
  · cases h

/-- Every step of an operation that the command engine runs is one of the effects above. -/
theorem exec_command_effect {i : Instr} {s t : State} (ht : i ≠ .tick) (hr : i ≠ .refill)
    (hb : ∀ addr, i = .readSingleBlock addr → s.turn = .cmd) (h : exec i s = .next t) :
    ∃ c, s.cur = some c ∧ taskReady s = true ∧ CommandEffect c s t := by
  cases i with
  | tick => exact absurd rfl ht
  | refill => exact absurd rfl hr
  | nop =>
    obtain ⟨c, hc, hr, -, hp, rfl⟩ := inDecodeStep_next h
    exact ⟨c, hc, hr, .ends _ hp⟩
  | clrFlags =>
    obtain ⟨c, hc, hr, hi, hp, rfl⟩ := inDecodeStep_next h
    exact ⟨c, hc, hr, .clears hp hi⟩
  | spiXfer d =>
    obtain ⟨c, hc, hr, -, hp, rfl⟩ := inDecodeStep_next h
    refine ⟨c, hc, hr, ?_⟩
    rcases unlessSpiBusy_cases s (finish .ok { xfer d s with rx := cardAnswer s }) with ⟨-, e⟩ | ⟨hb, e⟩ <;> rw [e]
    exacts [.ends _ hp, .receives d hp hb]
  | spiSend d =>
    obtain ⟨c, hc, hr, -, hp, rfl⟩ := inDecodeStep_next h
    refine ⟨c, hc, hr, ?_⟩
    rcases unlessSpiBusy_cases s (finish .ok (xfer d s)) with ⟨-, e⟩ | ⟨hb, e⟩ <;> rw [e]
    exacts [.ends _ hp, .sends d hp hb]
  | spiRecv =>
    obtain ⟨c, hc, hr, -, hp, rfl⟩ := inDecodeStep_next h
    refine ⟨c, hc, hr, ?_⟩
    rcases unlessSpiBusy_cases s (finish .ok { recv s with rx := cardAnswer s }) with ⟨-, e⟩ | ⟨hb, e⟩ <;> rw [e]
    exacts [.ends _ hp, .receives filler hp hb]
  | spiSetDiv =>
    obtain ⟨c, hc, hr, -, hp, rfl⟩ := inDecodeStep_next h
    refine ⟨c, hc, hr, ?_⟩
    rcases unlessSpiBusy_cases s (finish .ok { s with div := nearestOf s.cfg.supportedDivisors c.divreq }) with
      ⟨-, e⟩ | ⟨hb, e⟩ <;> rw [e]
    exacts [.ends _ hp, .setsDivisor c.divreq hp hb]
  | spiSelect =>
    obtain ⟨c, hc, hr, -, hp, rfl⟩ := inDecodeStep_next h
    refine ⟨c, hc, hr, ?_⟩
    rcases unlessSpiBusy_cases s (finish .ok (selectCard true s)) with ⟨-, e⟩ | ⟨hb, e⟩ <;> rw [e]
    exacts [.ends _ hp, .selects true hp hb]
  | spiDeselect =>
    obtain ⟨c, hc, hr, -, hp, rfl⟩ := inDecodeStep_next h
    refine ⟨c, hc, hr, ?_⟩
    rcases unlessSpiBusy_cases s (finish .ok (selectCard false s)) with ⟨-, e⟩ | ⟨hb, e⟩ <;> rw [e]
    exacts [.ends _ hp, .selects false hp hb]
  | sdInit =>
    obtain ⟨c, hc, hr, -, hbody⟩ := onCommand_next h
    refine ⟨c, hc, hr, ?_⟩
    split at hbody <;> rename_i hp <;> cases hbody
    · unfold sdInitDecode
      rcases unlessSpiBusy_cases s _ with ⟨-, e⟩ | ⟨hb, e⟩ <;> rw [e]
      · exact .ends _ hp
      · split
        · rename_i hcard
          exact .startsInit hp hb hcard
        · exact .ends _ hp
    · exact .wakes _ hp
    · exact .inits _ hp
  | sdRead =>
    obtain ⟨c, hc, hr, -, hbody⟩ := onCommand_next h
    refine ⟨c, hc, hr, ?_⟩
    split at hbody <;> rename_i hp <;> cases hbody
    · unfold sdReadDecode
      rcases unlessSpiBusy_cases s _ with ⟨-, e⟩ | ⟨hb, e⟩ <;> rw [e]
      · exact .ends _ hp
      · split
        · exact .ends _ hp
        · rename_i hrange
          split
          · rename_i hcard
            exact .startsRead _ hp hb hcard (by simpa using hrange)
          · exact .ends _ hp
    · exact .reads _ hp
  | i2cStart =>
    obtain ⟨c, hc, hr, -, h⟩ := singlePrim_next h
    refine ⟨c, hc, hr, ?_⟩
    rcases h with ⟨hp, rfl⟩ | ⟨hp, ack, ha, rfl⟩
    · exact i2cDecode_effect hp fun hpl _ => .waitsForPrim hp hpl
    · exact .completesPrim _ _ hp ha
  | i2cWrite d =>
    obtain ⟨c, hc, hr, -, h⟩ := singlePrim_next h
    refine ⟨c, hc, hr, ?_⟩
    rcases h with ⟨hp, rfl⟩ | ⟨hp, ack, ha, rfl⟩
    · exact i2cDecode_effect hp fun hpl _ => .waitsForPrim hp hpl
    · exact .completesPrim _ _ hp ha
  | i2cStop =>
    obtain ⟨c, hc, hr, -, h⟩ := singlePrim_next h
    refine ⟨c, hc, hr, ?_⟩
    rcases h with ⟨hp, rfl⟩ | ⟨hp, ack, ha, rfl⟩
    · exact i2cDecode_effect hp fun hpl _ => .waitsForPrim hp hpl
    · exact .completesPrim _ _ hp ha
  | dacWrite d =>
    obtain ⟨c, hc, hr, -, hbody⟩ := onCommand_next h
    refine ⟨c, hc, hr, ?_⟩
    split at hbody <;> rename_i hp
    · cases hbody
      exact i2cDecode_effect hp fun hpl ho => .startsFrame hp hpl ho
    · obtain ⟨prim, ack, hf, ha, rfl⟩ := commandDacStep_next hbody
      exact .completesFramePrim _ _ _ _ hp hf ha
    all_goals cases hbody
  | pbStart =>
    obtain ⟨c, hc, hr, -, hp, rfl⟩ := inDecodeStep_next h
    refine ⟨c, hc, hr, ?_⟩
    split
    · exact .ends _ hp
    · rename_i ho
      split
      · exact .ends _ hp
      · split
        · rename_i hcard
          exact .startsPlayback hp (by simpa using ho) hcard
        · exact .ends _ hp
  | pbStop =>
    obtain ⟨c, hc, hr, -, hbody⟩ := onCommand_next h
    refine ⟨c, hc, hr, ?_⟩
    split at hbody <;> rename_i hp
    · cases hbody
      unfold pbStopDecode
      split
      · rename_i hpl
        exact .stopsPlayback hp hpl
      · exact .ends _ hp
    · obtain ⟨prim, ack, hf, ha, rfl⟩ := commandDacStep_next hbody
      exact .completesFramePrim _ _ _ _ hp hf ha
    all_goals cases hbody
  | goIdleState =>
    obtain ⟨c, p, hc, hr, hp, -, rfl⟩ := onInitWire_next h
    exact ⟨c, hc, hr, .inits p hp⟩
  | sendIfCond =>
    obtain ⟨c, p, hc, hr, hp, -, rfl⟩ := onInitWire_next h
    exact ⟨c, hc, hr, .inits p hp⟩
  | appCmd =>
    obtain ⟨c, p, hc, hr, hp, -, rfl⟩ := onInitWire_next h
    exact ⟨c, hc, hr, .inits p hp⟩
  | sendOpCond =>
    obtain ⟨c, p, hc, hr, hp, -, rfl⟩ := onInitWire_next h
    exact ⟨c, hc, hr, .inits p hp⟩
  | readOcr =>
    obtain ⟨c, p, hc, hr, hp, -, rfl⟩ := onInitWire_next h
    exact ⟨c, hc, hr, .inits p hp⟩
  | readSingleBlock addr =>
    have hturn := hb addr rfl
    simp only [exec, execReadSingleBlock, hturn] at h
    split at h
    · rename_i hready
      obtain ⟨c, r, hc, hp, -, rfl⟩ := commandReadBlock_next h
      exact ⟨c, hc, hready, .reads r hp⟩
    · cases h

theorem exec_tick_effect {s t : State} (h : exec .tick s = .next t) : ConsumerEffect s t := by
  simp only [exec, execTick] at h
  split at h
  · rename_i hin
    unfold handlerStep at h
    split at h
    · rename_i prim hp
      split at h
      · rename_i u hu
        obtain ⟨ack, ha, rfl⟩ := i2cStep_eq_some.1 hu
        cases h
        exact .completes prim ack hin hp ha
      · cases h
    · cases h
  · rename_i hin
    split at h
    · rename_i hpl
      simp only [Bool.and_eq_true] at hpl
      split at h
      · rename_i hidx
        cases h
        exact .enters (by simpa using hin) hpl.1 hpl.2 hidx
      · cases h
    · cases h

theorem exec_producer_effect {s t : State} (hturn : s.turn = .prod) (h : exec s.prod.current s = .next t) :
    taskReady s = true ∧ ProducerEffect s t := by
  cases hprod : s.prod with
  | waiting =>
    simp only [hprod, Producer.current, exec, execRefill] at h
    split at h
    · rename_i hready
      split at h
      · rename_i hg
        cases h
        exact ⟨hready, .wakes hprod hg.1 hg.2⟩
      · cases h
    · cases h
  | filling hf r =>
    simp only [hprod, Producer.current, exec, execReadSingleBlock, hturn] at h
    split at h
    · rename_i hready
      obtain ⟨hf', r', hp', -, rfl⟩ := producerReadBlock_next h
      exact ⟨hready, .fills hf' r' hp'⟩
    · cases h

/-- What one step of the machine can do. -/
inductive StepEffect (s : State) : State → Prop
  /-- The agent has no step; only its turn passes. -/
  | passes : StepEffect s s
  | host (a : HostAccess) : s.turn = .host a → StepEffect s (hostStep a s)
  | tickSource : s.turn = .tickSrc → StepEffect s (tickSource s)
  | command (c : Command) (t : State) : s.turn = .cmd → s.cur = some c → taskReady s = true → CommandEffect c s t →
      StepEffect s t
  | producer (t : State) : s.turn = .prod → taskReady s = true → ProducerEffect s t → StepEffect s t
  | consumer (t : State) : s.turn = .cons → ConsumerEffect s t → StepEffect s t

/-- The command under way is never one of the two operations that have no encoding (R303). -/
theorem Command.current_encoded {c : Command} {i : Instr} (h : c.current = .ok i) : i ≠ .tick ∧ i ≠ .refill := by
  have key : ∀ j, c.instr = .ok j → j ≠ .tick ∧ j ≠ .refill := by
    intro j hj
    unfold Command.instr decodeFields at hj
    split at hj
    · split at hj
      · rename_i k hk
        cases hj
        unfold decodeOpcode at hk
        split at hk <;> cases hk <;> exact ⟨by simp, by simp⟩
      · cases hj
    · cases hj
  unfold Command.current at h
  split at h
  · rename_i p _
    cases h
    rcases p with ⟨c, p⟩ | k | ⟨k, o⟩
    · cases c <;> exact ⟨by simp [InitPos.instr, InitCommand.instr], by simp [InitPos.instr, InitCommand.instr]⟩
    · exact ⟨by simp [InitPos.instr], by simp [InitPos.instr]⟩
    · exact ⟨by simp [InitPos.instr], by simp [InitPos.instr]⟩
  · cases h
    exact ⟨by simp, by simp⟩
  all_goals exact key i h

/-- What the step of the agent at turn can do, when that agent has one. -/
theorem agentStep_effect {s t : State} (h : agentStep s = .next t) : StepEffect s t := by
  unfold agentStep at h
  split at h <;> rename_i hturn
  · unfold hostAgent at h
    split at h
    · cases h
    · cases h
      exact .host _ hturn
  · unfold tickSourceAgent at h
    split at h
    · cases h
      exact .tickSource hturn
    · cases h
  · unfold commandAgent at h
    split at h
    · cases h
    · rename_i c hc
      split at h <;> rename_i i hi
      · have hne := Command.current_encoded hi
        obtain ⟨c', hc', hr, he⟩ := exec_command_effect hne.1 hne.2 (fun _ _ => hturn) h
        exact .command c' t hturn hc' hr he
      · unfold illegalCommand at h
        split at h
        · rename_i hr
          cases h
          exact .command c _ hturn hc hr.1 (.ends _ hr.2)
        · cases h
  · obtain ⟨hr, he⟩ := exec_producer_effect hturn h
    exact .producer t hturn hr he
  · exact .consumer t hturn (exec_tick_effect h)

/-- A step is one of the effects above, and the schedule goes on. -/
theorem step_effect {s t : State} (h : step s = .next t) : ∃ u, t = u.advance ∧ StepEffect s u := by
  rcases settle_next h with ⟨u, hu, rfl⟩ | ⟨-, rfl⟩
  · exact ⟨u, rfl, agentStep_effect hu⟩
  · exact ⟨s, rfl, .passes⟩

/-! ### The agents -/

/-- Putting a turn first writes nothing but the schedule. -/
theorem withTurn_eq (s : State) (a : Turn) : s.withTurn a = { s with env := (s.withTurn a).env } := rfl

theorem withTurn_turn (s : State) (a : Turn) : (s.withTurn a).turn = a := rfl

/-- The host has a step until it faults (R207, R620). -/
theorem enabled_host (a : HostAccess) (s : State) : enabled (.host a) s = s.accessFault.isNone := by
  cases h : s.accessFault <;> simp [enabled, agentStep, hostAgent, State.turn, State.withTurn, h, takesStep]

/-- The tick source has a step while playing (R535). -/
theorem enabled_tickSource (s : State) : enabled .tickSrc s = s.playing := by
  cases h : s.playing <;> simp [enabled, agentStep, tickSourceAgent, State.turn, State.withTurn, h, takesStep]

end Sys2Proof.Machine
end

