-- ==== Sys2Proof/Machine/HostProgram.lean ====
section
/-! DEFINITION. Host programs (R330, R331): their lines, the register access that a line makes, the pseudo-instructions, and a
run of a program under the schedule that its markers name. The block itself knows nothing of them. -/

namespace Sys2Proof.Machine

/-! ### Lines -/

/-- The register names of R210. -/
inductive RegName where
  | cmd
  | block
  | xfer
  | divreq
  | status
  | div
  | playidx
  | cursor
  | semcnt
  | rerr
  deriving DecidableEq, Repr

/-- `off(NAME)` (R210). -/
def RegName.off : RegName → Nat
  | .cmd => 0x000
  | .block => 0x004
  | .xfer => 0x008
  | .divreq => 0x00C
  | .status => 0x010
  | .div => 0x014
  | .playidx => 0x018
  | .cursor => 0x01C
  | .semcnt => 0x020
  | .rerr => 0x024

/-- One line of a host program (R330). -/
inductive HostLine where
  /-- `wr NAME, imm`. -/
  | wr (name : RegName) (imm : Word)
  /-- `rd NAME`. -/
  | rd (name : RegName)
  /-- `rd` of a word of a window, by its offset. -/
  | rdAt (off : Nat)
  /-- `MNEMONIC [byte]`, `byte = 0` when omitted. -/
  | issue (mnemonic : Instr) (byte : Byte)
  | wait
  /-- `@tick`. -/
  | tick
  /-- `@prod`. -/
  | prod
  deriving DecidableEq, Repr

/-- The word `(byte << 8) | OPC(MNEMONIC)`; an operation that is no host command has none (R301, R330). -/
def mnemonicWord (mnemonic : Instr) (byte : Byte) : Option Word :=
  match encode mnemonic with
  | some (.command w) => some (commandWord byte (opcOf w))
  | some (.frame _) => none
  | none => none

/-- The access that a line makes; `wait` and the markers are no single access. -/
def HostLine.access : HostLine → Option HostAccess
  | .wr name imm => some (.write name.off 4 imm)
  | .rd name => some (.read name.off 4)
  | .rdAt off => some (.read off 4)
  | .issue mnemonic byte => (mnemonicWord mnemonic byte).map (.write RegName.cmd.off 4)
  | .wait => none
  | .tick => none
  | .prod => none

/-! ### Pseudo-instructions (R331) -/

/-- `spi.setdiv d`. -/
def pseudoSetDiv (d : Word) : List HostLine := [.wr .divreq d, .issue .spiSetDiv 0, .wait]
/-- `sd.init`. -/
def pseudoSdInit : List HostLine := [.issue .sdInit 0, .wait]
/-- `sd.read blk, off, len`. -/
def pseudoSdRead (blk : Word) (off len : Short) : List HostLine :=
  [.wr .block blk, .wr .xfer (len ++ off), .issue .sdRead 0, .wait]
/-- `dac.write v`. -/
def pseudoDacWrite (v : Byte) : List HostLine := [.issue (.dacWrite v) v, .wait]
/-- `pb.start`. -/
def pseudoPbStart : List HostLine := [.issue .pbStart 0, .wait]
/-- `pb.stop`. -/
def pseudoPbStop : List HostLine := [.issue .pbStop 0, .wait]
/-- `spi.x b`. -/
def pseudoSpiX (b : Byte) : List HostLine := [.issue (.spiXfer b) b, .wait, .rd .status]

/-! ### Runs -/

/-- One step of the machine with this agent's turn put first. -/
def stepAs (t : Turn) (s : State) : Outcome := step (s.withTurn t)

/-- `n` steps of one agent. -/
def stepsAs (t : Turn) : Nat → State → Outcome
  | 0, s => .next s
  | n + 1, s =>
    match stepAs t s with
    | .next u => stepsAs t n u
    | .fault f => .fault f
    | .refused r => .refused r

/-- `wait`: reads of `STATUS` until `BUSY` reads 0, with one step of the command engine after every read that finds it 1; at most
`fuel` reads. -/
def waitRun : Nat → State → Outcome
  | 0, s => .next s
  | fuel + 1, s =>
    match stepAs (.host (.read RegName.status.off 4)) s with
    | .next t =>
      if t.env.readData.getLsbD 0 then
        match stepAs .cmd t with
        | .next u => waitRun fuel u
        | .fault f => .fault f
        | .refused r => .refused r
      else .next t
    | .fault f => .fault f
    | .refused r => .refused r

/-- The steps of a fill until the producer waits again, at most `fuel`. -/
def fillRun : Nat → State → Outcome
  | 0, s => .next s
  | fuel + 1, s =>
    if s.prod.active then
      match stepAs .prod s with
      | .next t => fillRun fuel t
      | .fault f => .fault f
      | .refused r => .refused r
    else .next s

/-- `@tick`: one step of the tick source and the whole handler, its entry and its six completions. -/
def tickRun (s : State) : Outcome :=
  match stepAs .tickSrc s with
  | .next t => stepsAs .cons 7 t
  | .fault f => .fault f
  | .refused r => .refused r

/-- `@prod`: the wake step and the fill it starts. -/
def prodRun (fuel : Nat) (s : State) : Outcome :=
  match stepAs .prod s with
  | .next t => fillRun fuel t
  | .fault f => .fault f
  | .refused r => .refused r

/-- One line; a line without an access is a line of no effect. -/
def runLine (fuel : Nat) (l : HostLine) (s : State) : Outcome :=
  match l with
  | .wait => waitRun fuel s
  | .tick => tickRun s
  | .prod => prodRun fuel s
  | .wr name imm => stepAs (.host (.write name.off 4 imm)) s
  | .rd name => stepAs (.host (.read name.off 4)) s
  | .rdAt off => stepAs (.host (.read off 4)) s
  | .issue mnemonic byte =>
    match mnemonicWord mnemonic byte with
    | some w => stepAs (.host (.write RegName.cmd.off 4 w)) s
    | none => .next s

/-- A host program, line by line, with at most `fuel` rounds in every `wait` and `@prod`. -/
def runProgram (fuel : Nat) : List HostLine → State → Outcome
  | [], s => .next s
  | l :: ls, s =>
    match runLine fuel l s with
    | .next t => runProgram fuel ls t
    | .fault f => .fault f
    | .refused r => .refused r

end Sys2Proof.Machine
end

