-- ==== Sys2Proof/Tests/Slice0.lean ====
section
/-! SUPPORT. The model's own tests: words written out from the spec's encodings, ill-formed terms, one-step vectors of
95_test_vectors.md, and for every statement with hypotheses a state that meets them. -/

namespace Sys2Proof.Tests

open Sys2Proof.Machine Sys2Proof.Safety

/-! ### Fixture and helpers -/

/-- The fixture of 95_test_vectors.md section 0. -/
def fx : Params where
  r1PollLimit := 8
  opcondRetryLimit := 8
  tokenPollLimit := 8
  supportedDivisors := [2, 4, 8, 16, 32, 64, 128]
  slowDivisor := 128
  fastDivisor := 2
  dacAddr := 0x60
  dacCmd := 0x40
  dacLow := 0x00
  silenceSample := 0x80
  startBlock := 100
  totalBlocks := 3
  samplePeriod := 1
  blockBase := 0

def s0 : State := State.resetOf fx
/-- After V-I1. -/
def hc : State := { s0 with card := .idleHighCapacity, div := 2 }
def playing : State := { hc with playing := true }
/-- A command word accepted. -/
def given (w : Word) (s : State) : State := issue w s
/-- A command word accepted, its sequencer at `p`. -/
def given_at (w : Word) (p : CmdPos) (s : State) : State :=
  { s with busy := true, cur := some { accepted w s with pos := p } }
def cardSays (bs : List Byte) (s : State) : State := { s with env := { s.env with cardIn := bs } }
def i2cSays (as : List I2cAnswer) (s : State) : State := { s with env := { s.env with i2cIn := as } }
def turns (ts : List Turn) (s : State) : State := { s with env := { s.env with sched := ts } }
/-- The outcome is a next state with property `p`. -/
def check (o : Outcome) (p : State → Bool) : Bool :=
  match o with
  | .next t => p t
  | .fault _ => false
  | .refused _ => false
/-- The command ended with this code, leaving everything but `RESULT`, `BUSY` and `CUR` as it was in `s`. -/
def onlyEnds (code : ResultCode) (s t : State) : Bool := t == finish code s

/-! ### Words and frames, bit by bit from R300, R301, R310, R311 -/

/-- V-D1: every bit 0. -/
theorem test_word_nop : decodeCommand 0b00000000000000000000000000000000 = .ok .nop := by decide
/-- `DATA8` = 0x40, `OPC` = 0x01. -/
theorem test_word_spiXfer : decodeCommand 0b00000000000000000100000000000001 = .ok (.spiXfer 0x40) := by decide
/-- `DATA8` = 0x95, `OPC` = 0x02. -/
theorem test_word_spiSend : decodeCommand 0b00000000000000001001010100000010 = .ok (.spiSend 0x95) := by decide
/-- V-D7: `DATA8` = 0xAB is ignored. -/
theorem test_word_spiRecv : decodeCommand 0b00000000000000001010101100000011 = .ok .spiRecv := by decide
theorem test_word_spiSetDiv : decodeCommand 0b00000000000000000000000000000100 = .ok .spiSetDiv := by decide
theorem test_word_spiSelect : decodeCommand 0b00000000000000000000000000000101 = .ok .spiSelect := by decide
theorem test_word_spiDeselect : decodeCommand 0b00000000000000000000000000000110 = .ok .spiDeselect := by decide
theorem test_word_sdInit : decodeCommand 0b00000000000000000000000000010000 = .ok .sdInit := by decide
theorem test_word_sdRead : decodeCommand 0b00000000000000000000000000010001 = .ok .sdRead := by decide
theorem test_word_i2cStart : decodeCommand 0b00000000000000000000000000100000 = .ok .i2cStart := by decide
/-- `DATA8` = 0xC0. -/
theorem test_word_i2cWrite : decodeCommand 0b00000000000000001100000000100001 = .ok (.i2cWrite 0xC0) := by decide
theorem test_word_i2cStop : decodeCommand 0b00000000000000000000000000100010 = .ok .i2cStop := by decide
/-- V-D8. -/
theorem test_word_dacWrite : decodeCommand 0b00000000000000001100000000100011 = .ok (.dacWrite 0xC0) := by decide
theorem test_word_pbStart : decodeCommand 0b00000000000000000000000000110000 = .ok .pbStart := by decide
theorem test_word_pbStop : decodeCommand 0b00000000000000000000000000110001 = .ok .pbStop := by decide
/-- V-D9. -/
theorem test_word_clrFlags : decodeCommand 0b00000000000000000000000000111111 = .ok .clrFlags := by decide
/-- The two internal operations have no encoding (R303). -/
theorem test_word_tick : encode .tick = none := by decide
theorem test_word_refill : encode .refill = none := by decide
/-- `40 00 00 00 00 95`. -/
theorem test_frame_goIdleState :
    decodeFrame 0b010000000000000000000000000000000000000010010101 = .ok .goIdleState := by decide
/-- `48 00 00 01 AA 87`. -/
theorem test_frame_sendIfCond :
    decodeFrame 0b010010000000000000000000000000011010101010000111 = .ok .sendIfCond := by decide
/-- `77 00 00 00 00 FF`. -/
theorem test_frame_appCmd :
    decodeFrame 0b011101110000000000000000000000000000000011111111 = .ok .appCmd := by decide
/-- `69 40 00 00 00 FF`. -/
theorem test_frame_sendOpCond :
    decodeFrame 0b011010010100000000000000000000000000000011111111 = .ok .sendOpCond := by decide
/-- `7A 00 00 00 00 FF`. -/
theorem test_frame_readOcr :
    decodeFrame 0b011110100000000000000000000000000000000011111111 = .ok .readOcr := by decide
/-- E2: `51 00 00 C8 00 FF`. -/
theorem test_frame_readSingleBlock :
    decodeFrame 0b010100010000000000000000110010000000000011111111 = .ok (.readSingleBlock 0x0000C800) := by decide

/-- V-D3 to V-D6, the neighbours of the opcode ranges, and frames that are none of the block's. -/
theorem test_words_rejected :
    decodeCommand 0x00010000 = .error .reservedBits ∧ decodeCommand 0x000000FF = .error .reservedOpcode ∧
    decodeCommand 0x00000007 = .error .reservedOpcode ∧ decodeCommand 0x80000031 = .error .reservedBits ∧
    decodeCommand 0x00000012 = .error .reservedOpcode ∧ decodeCommand 0x00000024 = .error .reservedOpcode ∧
    decodeCommand 0x0000003E = .error .reservedOpcode ∧ decodeCommand 0x00000040 = .error .reservedOpcode ∧
    decodeFrame 0x400000000094 = .error .notAFrame ∧ decodeFrame 0x5100000064FE = .error .notAFrame ∧
    decodeFrame 0x480000000087 = .error .notAFrame ∧ decodeFrame 0x1100000064FF = .error .notAFrame := by decide

/-! ### Ill-formed terms (WellFormed.lean) -/

theorem test_illformed_instr : Instr.wf .tick = false ∧ Instr.wf .refill = false := by decide

/-- V-M5 to V-M7: misaligned, of 2 bytes, out of range; and the last access that is none of these. -/
theorem test_illformed_access :
    (HostAccess.read 0x011 4).wf = false ∧ (HostAccess.read 0x010 2).wf = false ∧
    (HostAccess.write 0x1000 4 0).wf = false ∧ (HostAccess.read 0xFFC 4).wf = true := by decide

/-- Each constraint of R8, broken alone. -/
theorem test_illformed_params :
    fx.wf = true ∧ { fx with r1PollLimit := 0 }.wf = false ∧ { fx with opcondRetryLimit := 0 }.wf = false ∧
    { fx with tokenPollLimit := 0 }.wf = false ∧ { fx with supportedDivisors := [] }.wf = false ∧
    { fx with supportedDivisors := [2, 0] }.wf = false ∧ { fx with slowDivisor := 0 }.wf = false ∧
    { fx with fastDivisor := 0 }.wf = false ∧ { fx with totalBlocks := 0 }.wf = false ∧
    { fx with totalBlocks := 2 ^ 32 + 1 }.wf = false ∧ { fx with samplePeriod := 0 }.wf = false := by decide

/-- Entries out of order, twice the same index, a listed unlisted value, an index outside. -/
theorem test_illformed_memory :
    memoryWf [(1, 5), (0, 5)] = false ∧ memoryWf [(1, 5), (1, 6)] = false ∧ memoryWf [(1, 0)] = false ∧
    memoryBelow 400 [(400, 1)] = false ∧ memoryWf [(0, 5), (399, 6)] = true := by decide

/-! ### Operands -/

/-- The table of `nearest(d)` in 95_test_vectors.md section 2.3. -/
theorem test_nearest :
    ([0, 1, 2, 3, 5, 6, 7, 12, 24, 96, 100, 128, 129, 65535] : List Short).map (nearestOf fx.supportedDivisors) =
      [2, 2, 2, 4, 4, 8, 8, 16, 32, 128, 128, 128, 128, 128] := by decide

/-- The table of `wire_addr(n)` in section 2.4. -/
theorem test_wireAddr :
    ([0, 1, 100, 0x007FFFFF, 0x00800000, 0xFFFFFFFF] : List Word).map (wireAddr .idleStandard) =
      [0, 0x200, 0xC800, 0xFFFFFE00, 0, 0xFFFFFE00] ∧
    ([0, 1, 100, 0x007FFFFF, 0x00800000, 0xFFFFFFFF] : List Word).map (wireAddr .idleHighCapacity) =
      [0, 1, 100, 0x007FFFFF, 0x00800000, 0xFFFFFFFF] := by decide

/-- V-R5, V-R6, V-R7, V-R2, V-R4: the range check does not wrap. -/
theorem test_outOfRange :
    outOfRange 512 0 = true ∧ outOfRange 300 213 = true ∧ outOfRange 0xFFFF 2 = true ∧
    outOfRange 511 1 = false ∧ outOfRange 300 212 = false := by decide

/-- V-A10. -/
theorem test_nextCursor :
    nextCursor fx 2 = 0 ∧ nextCursor fx 0 = 1 ∧ nextCursor { fx with totalBlocks := 1 } 0 = 0 ∧
    refillBlock fx 2 = 102 := by decide

/-! ### The host (section 2.2) -/

/-- V-M1 to V-M3, V-M10. -/
theorem test_host_reads :
    readRegister s0 0x010 = 0 ∧ readRegister s0 0x014 = 0x80 ∧ readRegister s0 0x028 = 0 ∧
    readRegister s0 0x000 = 0 := by decide

/-- V-M8: the window is little-endian. -/
theorem test_host_ring_window :
    readRegister { s0 with ring := [(0, 0x64), (1, 0x65), (2, 0x66), (3, 0x67)] } 0x400 = 0x67666564 := by decide

/-- V-M9, and V-M4. -/
theorem test_host_writes :
    (writeRegister 0x00C 0xFFFF0006 s0).divreq = 6 ∧ (writeRegister 0x010 0xFFFFFFFF s0 == s0) = true := by decide

/-- V-M5 to V-M7. -/
theorem test_host_refused_accesses :
    (hostStep (.read 0x011 4) s0).accessFault = some 0x011 ∧ (hostStep (.read 0x010 2) s0).accessFault = some 0x010 ∧
    (hostStep (.read 0x1000 4) s0).accessFault = some 0x1000 := by decide

/-- V-D10, V-M11: a command while busy is dropped; the snapshot keeps its block. -/
theorem test_host_while_busy :
    let s := given 0x11 (writeRegister 0x004 5 hc)
    (issue 0 s).cmdLost = true ∧ (issue 0 s).cur = s.cur ∧ (writeRegister 0x004 9 s).block = 9 ∧
    (writeRegister 0x004 9 s).cur.map (·.block) = some 5 := by decide

/-- V-A4, section 2.6, R211. -/
theorem test_status :
    statusWord playing = 0x0000000C ∧ statusWord { s0 with card := .failed, result := .initTimeout } = 0x00000406 ∧
    statusWord { s0 with rx := 0x01, result := .errIllegal } = 0x00010A00 ∧
    statusWord { s0 with tickLost := true, underrun := true } = 0x09000000 := by decide

/-! ### One step of each instruction -/

/-- V-D2. -/
theorem test_nop : check (exec .nop (given 0x0000FF00 s0)) (onlyEnds .ok (given 0x0000FF00 s0)) = true := by decide
/-- V-D16. -/
theorem test_nop_playing : check (exec .nop (given 0 playing)) (fun t => t.result == .ok && t.playing) = true := by decide

/-- V-D11. -/
theorem test_clrFlags :
    check (exec .clrFlags (given 0x3F { s0 with underrun := true, cmdLost := true, rerr := .ioCommandRejected }))
      (onlyEnds .ok (given 0x3F s0)) = true := by decide

/-- V-D3, V-D6: an illegal word has no other effect. -/
theorem test_illegal :
    check (step (turns [.cmd] (given 0x80000031 playing)))
      (fun t => t.result == .errIllegal && t.playing && !t.busy && t.history == []) = true := by decide

/-- V-S1. -/
theorem test_spiXfer :
    check (exec (.spiXfer 0x40) (cardSays [0x01] (given 0x4001 { s0 with cs := true })))
      (fun t => t.rx == 0x01 && t.result == .ok && t.history == [.spi true 0x40 0x01]) = true := by decide
/-- V-S10, V-D17. -/
theorem test_spiXfer_busy :
    check (exec (.spiXfer 0) (given 0x01 playing)) (onlyEnds .errBusy (given 0x01 playing)) = true ∧
    let filling : State := { hc with prod := .filling .lower { addr := 100, pos := .token 0 } }
    check (exec (.spiXfer 0) (given 0x01 filling)) (onlyEnds .errBusy (given 0x01 filling)) = true := by decide
/-- V-S2: the answer is lost. -/
theorem test_spiSend :
    check (exec (.spiSend 0x95) (cardSays [0xFF] (given 0x9502 { s0 with rx := 0x12 })))
      (fun t => t.rx == 0x12 && t.history == [.spi false 0x95 0xFF]) = true := by decide
/-- V-S3. -/
theorem test_spiRecv :
    check (exec .spiRecv (cardSays [0xFE] (given 0xAB03 { s0 with rx := 0x12 })))
      (fun t => t.rx == 0xFE && t.history == [.spi false 0xFF 0xFE]) = true := by decide
/-- V-S8, V-S9. -/
theorem test_spiSetDiv :
    check (exec .spiSetDiv (given 0x04 { s0 with divreq := 6 })) (fun t => t.div == 8 && t.history == []) = true ∧
    check (exec .spiSetDiv (given 0x04 { s0 with divreq := 0 })) (fun t => t.div == 2) = true := by decide
/-- V-S6. -/
theorem test_spiSelect :
    check (exec .spiSelect (given 0x05 { s0 with cs := true })) (fun t => t.cs && t.history == [.cs true]) = true := by
  decide
/-- V-D18. -/
theorem test_spiSelect_busy :
    check (exec .spiSelect (given 0x05 { hc with sem := 1 })) (onlyEnds .errBusy (given 0x05 { hc with sem := 1 })) = true := by
  decide
/-- V-S7. -/
theorem test_spiDeselect :
    check (exec .spiDeselect (given 0x06 { s0 with cs := true })) (fun t => !t.cs && t.history == [.cs false]) = true := by
  decide

/-- P2: the first step of SD_INIT. -/
theorem test_sdInit :
    check (exec .sdInit (cardSays [0xFF] (given 0x10 s0)))
      (fun t => t.div == 128 && t.history == [.cs false, .spi false 0xFF 0xFF] && t.busy) = true := by decide
/-- V-I11, V-D15. -/
theorem test_sdInit_refused :
    check (exec .sdInit (given 0x10 hc)) (onlyEnds .errState (given 0x10 hc)) = true ∧
    check (exec .sdInit (given 0x10 playing)) (onlyEnds .errBusy (given 0x10 playing)) = true := by decide
/-- V-R12: the first byte of the frame, after the selection. -/
theorem test_sdRead :
    check (exec .sdRead (cardSays [0xFF] (given 0x11 { hc with block := 5, xfer := 0x00040000 })))
      (fun t => t.cs && t.history == [.cs true, .spi true 0x51 0xFF] && t.busy) = true := by decide
/-- V-D12, V-D13, V-D14, V-R7: the order of the checks. -/
theorem test_sdRead_refused :
    check (exec .sdRead (given 0x11 { playing with xfer := 600 })) (fun t => t.result == .errBusy) = true ∧
    check (exec .sdRead (given 0x11 { s0 with xfer := 600 })) (fun t => t.result == .ioOffsetOutOfRange) = true ∧
    check (exec .sdRead (given 0x11 { s0 with xfer := 0x00010000 })) (fun t => t.result == .errNotReady && t.history == []) = true ∧
    check (exec .sdRead (given 0x11 { hc with xfer := 0x0002FFFF })) (fun t => t.result == .ioOffsetOutOfRange) = true := by
  decide

/-- V-C4: the completion. -/
theorem test_i2cStart :
    check (exec .i2cStart (i2cSays [.completes true] (given_at 0x20 .i2c s0)))
      (fun t => t.i2cOpen && t.history == [.i2cStart] && t.result == .ok) = true := by decide
/-- V-C5, V-C10. -/
theorem test_i2cStart_refused :
    check (exec .i2cStart (given 0x20 { s0 with i2cOpen := true })) (fun t => t.result == .errState) = true ∧
    check (exec .i2cStart (given 0x20 playing)) (fun t => t.result == .errBusy) = true := by decide
/-- V-C6: NACK. -/
theorem test_i2cWrite :
    check (exec (.i2cWrite 0xC0) (i2cSays [.completes false] (given_at 0xC021 .i2c { s0 with i2cOpen := true })))
      (fun t => t.history == [.i2cByte 0xC0 false] && t.result == .ok && t.i2cOpen) = true := by decide
/-- V-C7. -/
theorem test_i2cWrite_refused : check (exec (.i2cWrite 0x12) (given 0x1221 s0)) (fun t => t.result == .errState) = true := by
  decide
theorem test_i2cStop :
    check (exec .i2cStop (i2cSays [.completes true] (given_at 0x22 .i2c { s0 with i2cOpen := true })))
      (fun t => t.history == [.i2cStop] && !t.i2cOpen) = true := by decide
/-- V-C8. -/
theorem test_i2cStop_refused : check (exec .i2cStop (given 0x22 s0)) (fun t => t.result == .errState) = true := by decide
/-- V-C1: the address byte, the second primitive of the frame. -/
theorem test_dacWrite :
    check (exec (.dacWrite 0x80) (i2cSays [.completes true] (given_at 0x8023 (.dac 1) { s0 with i2cOpen := true })))
      (fun t => t.history == [.i2cByte 0xC0 true] && t.busy) = true := by decide
/-- V-C9. -/
theorem test_dacWrite_refused :
    check (exec (.dacWrite 0x10) (given 0x1023 { s0 with i2cOpen := true })) (fun t => t.result == .errState) = true := by decide

/-- V-A4. -/
theorem test_pbStart : check (exec .pbStart (given 0x30 hc)) (fun t => statusWord t == 0x0000000C) = true := by decide
/-- V-A1, V-A3. -/
theorem test_pbStart_refused :
    check (exec .pbStart (given 0x30 s0)) (fun t => statusWord t == 0x00000800) = true ∧
    check (exec .pbStart (given 0x30 { s0 with card := .idleStandard, i2cOpen := true }))
      (fun t => t.result == .errBusy && !t.playing) = true := by decide
/-- V-A5: playback is off at once; a tick that was waiting is gone (R532). -/
theorem test_pbStop :
    check (exec .pbStop (given 0x31 playing)) (fun t => !t.playing && t.busy && t.history == []) = true := by decide
/-- V-A6. -/
theorem test_pbStop_stopped : check (exec .pbStop (given 0x31 hc)) (onlyEnds .ok (given 0x31 hc)) = true := by decide

/-- V-A8: the handler's entry with the producer in the same half. -/
theorem test_tick_underrun :
    check (exec .tick { playing with tickLatch := true, prod := .filling .lower { addr := 100, pos := .data 0 } })
      (fun t => t.underrun && t.hsample == 0 && t.inHandler && !t.tickLatch && t.history == [.hazard .underrun]) = true := by
  decide
/-- V-A7: the exit of tick 400 with a pending refill. -/
theorem test_tick_exit_overrun :
    check (exec .tick (i2cSays [.completes true] { playing with
        inHandler := true, hpos := 5, i2cOpen := true, playIndex := 399, pending := some .lower, sem := 1 }))
      (fun t => t.playIndex == 0 && t.pending == some .upper && t.sem == 2 && t.sigOverrun && !t.inHandler &&
        t.history == [.i2cStop, .hazard .signalOverrun, .signal .upper]) = true := by decide
/-- V-A12. -/
theorem test_tickSource :
    (tickSource { playing with inHandler := true }).tickLatch = true ∧
    (tickSource { playing with inHandler := true, tickLatch := true }).tickLost = true := by decide

/-- V-A7: the wake; Upper is filled from block 100. -/
theorem test_refill_wake :
    check (exec .refill (cardSays [0xFF] { playing with sem := 2, pending := some .upper }))
      (fun t => t.sem == 1 && t.pending == none && t.history == [.cs true, .spi true 0x51 0xFF] &&
        t.prod == .filling .upper { addr := 100, pos := .command (.frame 1) }) = true := by decide
/-- V-A9: the rejected command. -/
theorem test_refill_error :
    check (exec .refill (cardSays [0x04] { playing with cs := true, prod := .filling .lower { addr := 100, pos := .command (.poll 1) } }))
      (fun t => t.refillErr && t.rerr == .ioCommandRejected && t.cursor == 0 && t.prod == .waiting && t.ring == []) = true := by
  decide

/-- P2: the first byte of the GO_IDLE_STATE frame, after the selection. -/
theorem test_goIdleState :
    check (exec .goIdleState (cardSays [0xFF] (given_at 0x10 (.init (.command .goIdle (.frame 0))) s0)))
      (fun t => t.history == [.cs true, .spi true 0x40 0xFF]) = true := by decide
/-- V-I5: R1 = 0x05. -/
theorem test_sendIfCond :
    check (exec .sendIfCond (cardSays [0x05] (given_at 0x10 (.init (.command .ifCond (.poll 1))) { s0 with cs := true })))
      (fun t => statusWord t == 0x00000206 && t.history == [.spi true 0xFF 0x05, .cs false]) = true := by decide
/-- V-I6: the reply's last byte is 0x55. -/
theorem test_sendIfCond_reply :
    check (exec .sendIfCond (cardSays [0x55] (given_at 0x10 (.init (.ifCondReply 3)) { s0 with cs := true })))
      (fun t => statusWord t == 0x00000306) = true := by decide
/-- P2: `77` is the first byte. -/
theorem test_appCmd :
    check (exec .appCmd (cardSays [0xFF] (given_at 0x10 (.init (.command (.appCmd 0) (.frame 0))) { s0 with cs := true })))
      (fun t => t.history == [.spi true 0x77 0xFF]) = true := by decide
/-- V-I7: the eighth attempt is the last. -/
theorem test_sendOpCond :
    check (exec .sendOpCond (cardSays [0x01] (given_at 0x10 (.init (.command (.opCond 7) (.poll 1))) s0)))
      (fun t => statusWord t == 0x00000406) = true ∧
    check (exec .sendOpCond (cardSays [0x01] (given_at 0x10 (.init (.command (.opCond 6) (.poll 1))) s0)))
      (fun t => t.busy && t.card == .uninitialized) = true := by decide
/-- V-I1: the last byte of the OCR `C0 FF 80 00`; V-I10 with `80`. -/
theorem test_readOcr :
    check (exec .readOcr (cardSays [0x00] (given_at 0x10 (.init (.ocrReply 3 0xC0)) s0)))
      (fun t => statusWord t == 0x00000004 && t.div == 2) = true ∧
    check (exec .readOcr (cardSays [0x00] (given_at 0x10 (.init (.ocrReply 3 0x80)) s0)))
      (fun t => statusWord t == 0x00000002) = true := by decide
/-- E1, V-R2: data byte 511 is stored at index 511, and the byte before it is not. -/
theorem test_readSingleBlock :
    let s : State := turns [.cmd] (cardSays [0x04] { hc with xfer := 0x000101FF })
    check (exec (.readSingleBlock 5) (given_at 0x11 (.read { addr := 5, pos := .data 511 }) s))
      (fun t => t.scratch == [(511, 0x04)] && t.ring == []) = true ∧
    check (exec (.readSingleBlock 5) (given_at 0x11 (.read { addr := 5, pos := .data 510 }) s))
      (fun t => t.scratch == []) = true := by decide
/-- R1 polls of section 2.4: `80` and `C1` are no responses, `7F` is one; eight bytes are the limit. -/
theorem test_poll :
    pollEnds fx 0 0x80 = false ∧ pollEnds fx 0 0xC1 = false ∧ pollEnds fx 0 0x7F = true ∧ pollEnds fx 0 0x01 = true ∧
    pollEnds fx 6 0xFF = false ∧ pollEnds fx 7 0xFF = true := by decide

/-- The words of P1 and P2, and `sd.read` of R331 with the XFER value of P2. -/
theorem test_mnemonicWord :
    mnemonicWord .spiSetDiv 0 = some 0x00000004 ∧ mnemonicWord (.spiXfer 0) 0x40 = some 0x00004001 ∧
    mnemonicWord (.spiSend 0) 0x95 = some 0x00009502 ∧ mnemonicWord .sdInit 0 = some 0x00000010 ∧
    mnemonicWord .tick 0 = none ∧
    pseudoSdRead 100 10 4 = [.wr .block 100, .wr .xfer 0x0004000A, .issue .sdRead 0, .wait] := by decide

/-- A line of P1: the host's write. -/
theorem test_runLine :
    check (runLine 0 (.wr .divreq 6) s0) (fun t => t.divreq == 6 && t.env.sched == [] && t.env.stepCount == 1) = true := by decide

/-! ### Witnesses: states and operands that meet the hypotheses of each statement -/

/-- A state of playback in which every part of the invariant says something: the handler waits for its third primitive, Upper is
being filled, a second request stands, an I2C command is refused later, the three hazard flags are set. -/
def midPlay : State := { playing with
  busy := true, cur := some (accepted 0x20 playing), inHandler := true, hpos := 2, i2cOpen := true, playIndex := 399
  pending := some .lower, sem := 1, cursor := 2, prod := .filling .upper { addr := 102, pos := .data 200 }
  ring := [(0, 0x64), (399, 0x07)], scratch := [(511, 0x04)], refillErr := true, rerr := .ioCommandRejected
  underrun := true, sigOverrun := true, tickLost := true
  history := [.hazard .tickLost, .hazard .signalOverrun, .hazard .underrun] }

theorem test_hyps_Inv_s0 : Inv s0 where
  params := by decide
  ringForm := by decide
  scratchForm := by decide
  busy := by decide
  div := by decide
  playIndex := by decide
  cursor := by decide
  pendingSignalled := by decide
  pendingSide := by intro h e; cases e
  cardReady := by decide
  latch := by decide
  handler := by decide
  i2cFree := by decide
  command := by intro c e; cases e
  rerr := by decide
  underrunShown := by decide
  sigOverrunShown := by decide
  tickLostShown := by decide

theorem test_hyps_Inv_midPlay : Inv midPlay where
  params := by decide
  ringForm := by decide
  scratchForm := by decide
  busy := by decide
  div := by decide
  playIndex := by decide
  cursor := by decide
  pendingSignalled := by decide
  pendingSide := by intro h e; cases e; decide
  cardReady := by decide
  latch := by decide
  handler := by decide
  i2cFree := by decide
  command := by intro c e; cases e; exact trivial
  rerr := by decide
  underrunShown := by decide
  sigOverrunShown := by decide
  tickLostShown := by decide

/-- DecodeOfEncodeIsIdentity, at the largest operands. -/
theorem test_hyps_DecodeOfEncodeIsIdentity :
    (Instr.readSingleBlock 0xFFFFFFFF).wf = true ∧ (Instr.spiXfer 0xFF).wf = true := by decide

/-- EncodeOfDecodeKeepsTheWord. -/
theorem test_hyps_EncodeOfDecodeKeepsTheWord :
    decodeCommand 0x0000FF3F = .ok .clrFlags ∧ decodeFrame 0x51FFFFFFFFFF = .ok (.readSingleBlock 0xFFFFFFFF) := by decide

/-- IllegalWordsEndInTheDecodeStep: a reserved opcode, a reserved bit. -/
theorem test_hyps_IllegalWordsEndInTheDecodeStep :
    (([0x00000040, 0xFFFF0000] : List Word).all fun w => decide (
      (turns [.cmd] (given w s0)).turn = .cmd ∧ taskReady (given w s0) = true ∧ ¬ (decodeCommand w).toOption.isSome ∧
      (given w s0).cur.map (fun c => (c.pos, c.opc, c.data8, c.reserved)) =
        some (.decode, w.extractLsb' 0 8, w.extractLsb' 8 8, w.extractLsb' 16 16))) = true := by decide

/-- StepRunsTheInstructionUnderWay: each agent's turn, the engine at its decode step and at wire level, and idle. -/
theorem test_hyps_StepRunsTheInstructionUnderWay :
    (accepted 0x01 s0).current = .ok (.spiXfer 0) ∧
    ({ accepted 0x10 s0 with pos := .init (.ifCondReply 3) } : Command).current = .ok .sendIfCond ∧
    (turns [.cmd] s0).turn = .cmd ∧ (turns [.cmd] s0).cur = none ∧ (turns [.prod] midPlay).turn = .prod ∧
    (turns [.cons] midPlay).turn = .cons ∧ (turns [.host (.read 0 4)] s0).turn = .host (.read 0 4) ∧
    (turns [.tickSrc] s0).turn = .tickSrc ∧ (accepted 0x01 s0).pos = .decode := by decide

/-- PlacedInstructionRunsNext. -/
theorem test_hyps_PlacedInstructionRunsNext :
    decodeTableWord 32 0x0000FF23 = some (.dacWrite 0xFF) ∧
    decodeTableWord 48 0x51FFFFFFFFFF = some (.readSingleBlock 0xFFFFFFFF) ∧
    decodeTableWord 48 0x6940000000FF = some .sendOpCond := by decide

/-- ResetLeavesTheTableOfValues: offsets on both sides of DIV. -/
theorem test_hyps_ResetLeavesTheTableOfValues : (0x010 : Nat) ≠ 0x014 ∧ (0x018 : Nat) ≠ 0x014 := by decide

/-- The reading of `enabled`: in mid-playback the tasks are held, the handler, the tick source and the host have a step; a handler
whose primitive never completes, a tick source while stopped and a host that has faulted have none. -/
theorem test_enabled :
    let s := i2cSays [.completes true] midPlay
    enabled .cmd s = false ∧ enabled .prod s = false ∧ enabled .cons s = true ∧ enabled .tickSrc s = true ∧
    enabled (.host (.read 0x010 4)) s = true ∧ enabled .cons (i2cSays [.never] midPlay) = false ∧
    enabled .tickSrc hc = false ∧ enabled (.host (.read 0x010 4)) { hc with accessFault := some 1 } = false ∧
    enabled .cmd (given 0x11 hc) = true ∧ enabled .prod { hc with sem := 1 } = true := by decide

/-- QuiescentStateWaitsForTheHost: an agent other than the host; a host write that is no command. -/
theorem test_hyps_QuiescentStateWaitsForTheHost :
    Quiescent hc ∧ hc.cur = none ∧ (∀ a, (turns [.prod] hc).turn ≠ .host a) ∧
    (turns [.host (.write 0x004 4 7)] hc).turn = .host (.write 0x004 4 7) ∧
    (∀ w, HostAccess.write 0x004 4 7 ≠ .write 0x000 4 w) ∧ ∃ t, step (turns [.host (.write 0x004 4 7)] hc) = .next t :=
  ⟨⟨rfl, rfl, rfl, rfl, rfl, rfl⟩, rfl, nofun, rfl, nofun, _, rfl⟩

/-- EveryStepKeepsTheInvariant, CardLeavesUninitializedOnly, InvariantKeepsTheMachineRunning: a step of the handler. -/
theorem test_hyps_EveryStepKeepsTheInvariant :
    Inv midPlay ∧ ∃ t, step (turns [.cons] (i2cSays [.completes true] midPlay)) = .next t :=
  ⟨test_hyps_Inv_midPlay, _, rfl⟩

/-- CardLeavesUninitializedOnly: the step in which the card becomes ready, and one in which it fails. -/
theorem test_hyps_CardLeavesUninitializedOnly :
    (∃ t, step (turns [.cmd] (cardSays [0x00] (given_at 0x10 (.init (.ocrReply 3 0xC0)) s0))) = .next t ∧
      t.card = .idleHighCapacity) ∧
    (∃ t, step (turns [.cmd] (cardSays [0x00] (given_at 0x10 (.init (.command .goIdle (.poll 0))) s0))) = .next t ∧
      t.card = .failed) := ⟨⟨_, rfl, rfl⟩, ⟨_, rfl, rfl⟩⟩

/-- EveryStepKeepsTheMemoryForm: a step that stores a byte of the ring. -/
theorem test_hyps_EveryStepKeepsTheMemoryForm :
    memoryWf midPlay.ring = true ∧ memoryWf midPlay.scratch = true ∧
    ∃ t, step (turns [.prod] (cardSays [0x05] { midPlay with inHandler := false })) = .next t ∧ readByte t.ring 200 = 0x05 :=
  ⟨by decide, by decide, _, rfl, by decide⟩

/-- InvariantKeepsTheMachineRunning: the one fault, outside the invariant. -/
theorem test_hyps_InvariantKeepsTheMachineRunning :
    step (turns [.cons] { playing with tickLatch := true, playIndex := 400 }) = .fault .ringIndex := rfl

/-- EachElementHasItsWriters: a step of each agent, each with a next state. -/
theorem test_hyps_EachElementHasItsWriters :
    ∀ a ∈ [Turn.cmd, .prod, .cons, .tickSrc, .host (.write 0x004 4 1)],
      (turns [a] s0).turn = a ∧ check (step (turns [a] s0)) (fun _ => true) = true := by decide

/-- StickyFlagsFallOnlyByClrflags: each flag set before a step, and the step of CLRFLAGS. -/
theorem test_hyps_StickyFlagsFallOnlyByClrflags :
    let s : State := { s0 with underrun := true, sigOverrun := true, tickLost := true, cmdLost := true, refillErr := true }
    (∃ t, step (turns [.cons] s) = .next t) ∧
    (∃ t, step (turns [.cmd] (given 0x3F s)) = .next t ∧ t.underrun = false) ∧
    (accepted 0x3F s).instr = .ok .clrFlags := ⟨⟨_, rfl⟩, ⟨_, rfl, rfl⟩, rfl⟩

/-- StickyFlagsFallOnlyByClrflags: the step of CLRFLAGS after an underrun: the flag is gone, the broken bound is not. -/
theorem test_hyps_StickyFlags_realTime :
    let s := turns [.cmd] (given 0x3F { playing with underrun := true, history := [.hazard .underrun] })
    ¬ RespectsRealTime s ∧
    check (step s) (fun t => !t.underrun && decide (Event.hazard .underrun ∈ t.history)) = true := by
  unfold RespectsRealTime; decide

/-- HistoryGrowsByOneBusActionAStep: a bus action; the rise of each hazard flag. -/
theorem test_hyps_HistoryGrowsByOneBusActionAStep :
    (∃ t, step (turns [.cmd] (cardSays [0xFF] (given 0x10 s0))) = .next t) ∧
    check (step (turns [.cons] { playing with tickLatch := true, prod := .filling .lower { addr := 1, pos := .token 0 } }))
      (fun t => t.underrun && t.history == [.hazard .underrun]) = true ∧
    check (step (turns [.cons] (i2cSays [.completes true] { playing with
        inHandler := true, hpos := 5, i2cOpen := true, playIndex := 199, pending := some .upper, sem := 1 })))
      (fun t => t.sigOverrun && t.history == [.i2cStop, .hazard .signalOverrun, .signal .lower]) = true ∧
    check (step (turns [.tickSrc] { playing with tickLatch := true }))
      (fun t => t.tickLost && t.history == [.hazard .tickLost]) = true := by
  refine ⟨⟨_, rfl⟩, ?_⟩; decide

/-- HostReadsTheRegisterMap: reads at the ends of the space; the last words of both windows; the ends of the reserved ranges. -/
theorem test_hyps_HostReadsTheRegisterMap :
    (∀ off ∈ [0x000, 0xFFC], (turns [.host (.read off 4)] s0).turn = .host (.read off 4) ∧ off % 4 = 0 ∧ off < 0x1000 ∧
      s0.accessFault = none) ∧
    readRegister midPlay (0x200 + 4 * 127) = 0x04000000 ∧ readRegister midPlay (0x400 + 4 * 99) = 0x07000000 ∧
    readRegister midPlay (0x400 + 4 * 0) = 0x64 ∧ readRegister midPlay 0x028 = 0 ∧ readRegister midPlay 0x1FC = 0 ∧
    readRegister midPlay 0x590 = 0 := by decide

/-- HostWritesTheArgumentRegisters: each register, and offsets on both sides of them that are not written. -/
theorem test_hyps_HostWritesTheArgumentRegisters :
    ∀ off ∈ [0x004, 0x008, 0x00C, 0x010, 0x200, 0xFFC],
      (turns [.host (.write off 4 0xFFFFFFFF)] s0).turn = .host (.write off 4 0xFFFFFFFF) ∧ off % 4 = 0 ∧ off < 0x1000 ∧
      s0.accessFault = none ∧ off ≠ 0x000 := by decide

/-- CommandIsAcceptedWithItsSnapshot, CommandWhileBusyIsLost. -/
theorem test_hyps_CommandIsAccepted :
    let s := turns [.host (.write 0x000 4 0xFFFFFFFF)] s0
    s.turn = .host (.write 0x000 4 0xFFFFFFFF) ∧ s.accessFault = none ∧ s.busy = false ∧ (given 0x11 s).busy = true := by
  decide

/-- RefusedAccessStopsTheHostForGood: a wrong size, a wrong alignment, the first offset outside; then a faulted host. -/
theorem test_hyps_RefusedAccessStopsTheHostForGood :
    (∀ a ∈ [HostAccess.read 0x010 2, .read 0x011 4, .write 0x1000 4 0],
      (turns [.host a] s0).turn = .host a ∧ s0.accessFault = none ∧
      (a.size ≠ 4 ∨ a.off % 4 ≠ 0 ∨ 0x1000 ≤ a.off)) ∧
    let s : State := { s0 with accessFault := some 0x011 }
    (turns [.host (.write 0 4 0)] s).turn = .host (.write 0 4 0) ∧
    check (step (turns [.host (.write 0 4 0)] s)) (fun t => t.accessFault == some 0x011) = true := by decide

/-- NopFinishesOk, ClrflagsClearsTheFlags. -/
theorem test_hyps_NopFinishesOk : Accepted 0x00 (accepted 0xFF00 playing) (given 0xFF00 playing) := ⟨rfl, rfl, rfl, rfl, rfl⟩

theorem test_hyps_ClrflagsClearsTheFlags : Accepted 0x3F (accepted 0x3F playing) (given 0x3F playing) := ⟨rfl, rfl, rfl, rfl, rfl⟩

/-- ArbitrationRefusesByClass: a command of each class, in a state that refuses it and in one that does not. -/
theorem test_hyps_ArbitrationRefusesByClass :
    Accepted 0x31 (accepted 0x31 playing) (given 0x31 playing) ∧ (accepted 0x31 playing).instr = .ok .pbStop ∧
    Accepted 0x30 (accepted 0x30 s0) (given 0x30 { s0 with i2cOpen := true }) ∧ (accepted 0x30 s0).instr = .ok .pbStart ∧
    Accepted 0x30 (accepted 0x30 s0) (given 0x30 s0) ∧ (given 0x30 s0).i2cOpen = false ∧
    Accepted 0x23 (accepted 0x0123 playing) (given 0x0123 playing) ∧ (accepted 0x0123 playing).instr = .ok (.dacWrite 1) ∧
    Accepted 0x23 (accepted 0x0123 hc) (given 0x0123 hc) ∧ (given 0x0123 hc).playing = false ∧
    Accepted 0x11 (accepted 0x11 hc) (given 0x11 { hc with sem := 1 }) ∧ ¬ SpiFree (given 0x11 { hc with sem := 1 }) ∧
    Accepted 0x11 (accepted 0x11 hc) (given 0x11 hc) ∧ SpiFree (given 0x11 hc) ∧ (accepted 0x11 hc).instr = .ok .sdRead := by
  unfold Accepted SpiFree; decide

/-- SpiXferWritesRx, SpiSendAndRecv, SpiSelectAndDeselect, SpiSetdivUsesTheFallback. -/
theorem test_hyps_Spi :
    SpiFree s0 ∧
    Accepted 0x01 (accepted 0x4001 s0) (given 0x4001 s0) ∧ SpiFree (given 0x4001 s0) ∧
    Accepted 0x02 (accepted 0x9502 s0) (given 0x9502 s0) ∧ SpiFree (given 0x9502 s0) ∧
    Accepted 0x03 (accepted 0xAB03 s0) (given 0xAB03 s0) ∧ SpiFree (given 0xAB03 s0) ∧
    Accepted 0x04 (accepted 0x04 s0) (given 0x04 s0) ∧ SpiFree (given 0x04 s0) ∧
    Accepted 0x05 (accepted 0x05 s0) (given 0x05 s0) ∧ SpiFree (given 0x05 s0) ∧
    Accepted 0x06 (accepted 0x06 s0) (given 0x06 s0) ∧ SpiFree (given 0x06 s0) := by unfold Accepted SpiFree; decide

/-- NearestDivisorIsNearest: a tie, and a divisor of the set. -/
theorem test_hyps_NearestDivisorIsNearest : fx.supportedDivisors ≠ [] ∧ (64 : Short) ∈ fx.supportedDivisors := by decide

/-- SdInitDecodeStep, SdInitAlwaysEnds, WakeUpSendsTenFillerBytes. -/
theorem test_hyps_SdInit :
    let s := cardSays (List.replicate 11 0xFF) (given 0x10 s0)
    Accepted 0x10 (accepted 0x10 s0) s ∧ SpiFree s ∧ s.card = .uninitialized ∧ s.cfg.wf = true ∧
    s.env.cardIn = List.replicate 10 0xFF ++ [0xFF] ∧ (List.replicate 10 (0xFF : Byte)).length = 10 ∧
    Accepted 0x10 (accepted 0x10 hc) (given 0x10 hc) ∧ SpiFree (given 0x10 hc) ∧ hc.card ≠ .uninitialized := by
  unfold Accepted SpiFree; decide

/-- InitCommandsSendTheirFrames: the first and the last byte of a frame. -/
theorem test_hyps_InitCommandsSendTheirFrames :
    ∀ k ∈ [(0 : Fin 6), 5], let s := given_at 0x10 (.init (.command .goIdle (.frame k))) s0
      s.cur.map (·.pos) = some (.init (.command .goIdle (.frame k))) ∧ taskReady s = true := by decide

/-- InitResponsesAreClassified: no response below the limit; a response; no response at the limit. -/
theorem test_hyps_InitResponsesAreClassified :
    (let s := cardSays [0x80] (given_at 0x10 (.init (.command .ifCond (.poll 6))) s0);
      taskReady s = true ∧ (cardAnswer s).getLsbD 7 = true ∧ 6 + 1 < s.cfg.r1PollLimit) ∧
    (let s := cardSays [0x7F] (given_at 0x10 (.init (.command .ifCond (.poll 0))) s0);
      taskReady s = true ∧ (cardAnswer s).getLsbD 7 = false) ∧
    (let s := cardSays [0xFF] (given_at 0x10 (.init (.command .ifCond (.poll 7))) s0);
      taskReady s = true ∧ s.cfg.r1PollLimit ≤ 7 + 1) := by decide

/-- InitRepliesAreChecked: the first and the last byte of both replies. -/
theorem test_hyps_InitRepliesAreChecked :
    ∀ k ∈ [(0 : Fin 4), 3],
      (given_at 0x10 (.init (.ifCondReply k)) s0).cur.map (·.pos) = some (.init (.ifCondReply k)) ∧
      (given_at 0x10 (.init (.ocrReply k 0xC0)) s0).cur.map (·.pos) = some (.init (.ocrReply k 0xC0)) ∧
      taskReady (given_at 0x10 (.init (.ifCondReply k)) s0) = true := by decide

/-- SdReadDecodeStep: out of range by the offset and by the sum; in range at the boundary with each kind of card. -/
theorem test_hyps_SdReadDecodeStep :
    let s := given 0x11 hc
    Accepted 0x11 (accepted 0x11 hc) s ∧ SpiFree s ∧
    (let c := accepted 0x11 { hc with xfer := 0x00000200 }; 512 ≤ (c.xfer.extractLsb' 0 16).toNat) ∧
    (let c := accepted 0x11 { hc with xfer := 0x00D5012C };
      512 < (c.xfer.extractLsb' 0 16).toNat + (c.xfer.extractLsb' 16 16).toNat) ∧
    (let c := accepted 0x11 { hc with xfer := 0x000101FF };
      (c.xfer.extractLsb' 0 16).toNat < 512 ∧ (c.xfer.extractLsb' 0 16).toNat + (c.xfer.extractLsb' 16 16).toNat ≤ 512) ∧
    s.card = .idleHighCapacity ∧ (given 0x11 s0).card = .uninitialized := by unfold Accepted SpiFree; decide

/-- ReadCommandSendsItsFrame, ReadStoresTheByteAtItsIndex: both agents at the first and the last byte of the frame and of the block,
in both polls, and at both check bytes. -/
theorem test_hyps_ReadSteps :
    (∀ p ∈ [ReadPos.command (.frame 0), .command (.frame 5), .command (.poll 6), .token 6, .data 0, .data 511, .check 0, .check 1],
      let s := turns [.cmd] (given_at 0x11 (.read { addr := 5, pos := p }) hc)
      s.turn = .cmd ∧ s.cur.map (·.pos) = some (.read { addr := 5, pos := p }) ∧ taskReady s = true ∧
        memoryWf s.ring = true ∧ memoryWf s.scratch = true) ∧
    (∀ p ∈ [ReadPos.command (.frame 0), .command (.frame 5), .command (.poll 6), .token 6, .data 0, .data 511, .check 0, .check 1],
      let s := turns [.prod] { hc with prod := .filling .upper { addr := 5, pos := p } }
      s.turn = .prod ∧ s.prod = .filling .upper { addr := 5, pos := p } ∧ taskReady s = true ∧
        memoryWf s.ring = true ∧ memoryWf s.scratch = true) := by decide

/-- ReadStoresTheByteAtItsIndex: each receiving step that goes on, at the last poll that may. -/
theorem test_hyps_ReadGoesOn :
    ReadGoesOn fx 0xFF (.command (.poll 6)) (.command (.poll 7)) ∧ ReadGoesOn fx 0x00 (.command (.poll 7)) (.token 0) ∧
    ReadGoesOn fx 0x00 (.token 6) (.token 7) ∧ ReadGoesOn fx 0xFE (.token 7) (.data 0) ∧
    ReadGoesOn fx 0x12 (.data 0) (.data 1) ∧ ReadGoesOn fx 0x12 (.data 510) (.data 511) ∧
    ReadGoesOn fx 0x12 (.data 511) (.check 0) ∧ ReadGoesOn fx 0x12 (.check 0) (.check 1) :=
  ⟨.noResponse 6 (by decide) (by decide), .response 7 rfl, .noToken 6 (by decide) (by decide), .token 7 rfl,
    .data 0 (by decide), .data 510 (by decide), .lastData, .firstCheck⟩

/-- Polls with one miss. -/
theorem test_hyps_polls : PollGoesOn fx [0xFF] ∧ TokenPollGoesOn fx [0xFF] := by
  unfold PollGoesOn TokenPollGoesOn; decide

/-- SdReadCopiesTheRange: the whole block's last byte, with one miss in each poll. -/
theorem test_hyps_SdReadCopiesTheRange :
    let frame : List Byte := List.replicate 6 0xFF
    let answers := readAnswers frame [0xFF] [0xFF] (List.replicate 512 0x05) [0, 0]
    let s := cardSays (answers ++ [0x11]) (given 0x11 { hc with xfer := 0x000101FF })
    let c := accepted 0x11 { hc with xfer := 0x000101FF }
    Accepted 0x11 c s ∧ SpiFree s ∧ s.card.ready = true ∧ memoryWf s.scratch = true ∧ c.offset < 512 ∧
    c.offset + c.length ≤ 512 ∧ frame.length = 6 ∧ PollGoesOn s.cfg [0xFF] ∧ TokenPollGoesOn s.cfg [0xFF] ∧
    (List.replicate 512 (0x05 : Byte)).length = 512 ∧ ([0, 0] : List Byte).length = 2 ∧ s.env.cardIn = answers ++ [0x11] :=
  ⟨⟨rfl, rfl, rfl, rfl, rfl⟩, ⟨rfl, rfl, rfl⟩, rfl, rfl, by decide, by decide, rfl, ⟨by decide, by decide⟩,
    ⟨by decide, by decide⟩, List.length_replicate, rfl, rfl⟩

/-- SdReadErrorsLeaveTheDestination: V-R8 (a rejection), a poll that ends at the limit, V-R9 (no token). -/
theorem test_hyps_SdReadErrorsLeaveTheDestination :
    let frame : List Byte := List.replicate 6 0xFF
    let s := cardSays (frame ++ pollAnswers [0xFF] 0x04) (given 0x11 hc)
    let s' := cardSays (frame ++ pollAnswers [0xFF] 0x00 ++ List.replicate 8 0xFF) (given 0x11 hc)
    Accepted 0x11 (accepted 0x11 hc) s ∧ SpiFree s ∧ s.card.ready = true ∧ (accepted 0x11 hc).offset < 512 ∧
    (accepted 0x11 hc).offset + (accepted 0x11 hc).length ≤ 512 ∧ frame.length = 6 ∧ PollGoesOn s.cfg [0xFF] ∧
    (0x04 : Byte).getLsbD 7 = false ∧ (0x04 : Byte) ≠ 0x00 ∧ s.env.cardIn = frame ++ pollAnswers [0xFF] 0x04 ++ [] ∧
    PollGoesOn s.cfg (List.replicate 7 0xFF) ∧ (List.replicate 7 (0xFF : Byte)).length + 1 = s.cfg.r1PollLimit ∧
    (List.replicate 8 (0xFF : Byte)).length = s'.cfg.tokenPollLimit ∧ 1 ≤ s'.cfg.tokenPollLimit ∧
    (∀ b ∈ List.replicate 8 (0xFF : Byte), b ≠ 0xFE) ∧
    s'.env.cardIn = frame ++ pollAnswers [0xFF] 0x00 ++ List.replicate 8 0xFF ++ [] := by
  unfold Accepted SpiFree PollGoesOn; decide

/-- WireStepsAreTheStepsOfTheirOwners. -/
theorem test_hyps_WireStepsAreTheStepsOfTheirOwners :
    (let c : Command := { accepted 0x10 s0 with pos := .init (.ifCondReply 0) };
      (given_at 0x10 (.init (.ifCondReply 0)) s0).cur = some c ∧ c.instr = .ok .sdInit) ∧
    (let c : Command := { accepted 0x11 hc with pos := .read { addr := 5, pos := .check 1 } };
      (turns [.cmd] (given_at 0x11 (.read { addr := 5, pos := .check 1 }) hc)).cur = some c ∧ c.instr = .ok .sdRead) ∧
    (turns [.prod] midPlay).turn = .prod ∧ midPlay.prod = .filling .upper { addr := 102, pos := .data 200 } := by decide

/-- I2cCommandsDecode, with the bus closed and open, DAC_WRITE (V-C9) among them. -/
theorem test_hyps_I2cCommandsDecode :
    ∀ o ∈ [false, true], let s : State := { hc with i2cOpen := o }
      s.playing = false ∧ Accepted 0x20 (accepted 0x20 s) (given 0x20 s) ∧
      Accepted 0x21 (accepted 0xC021 s) (given 0xC021 s) ∧ Accepted 0x22 (accepted 0x22 s) (given 0x22 s) ∧
      Accepted 0x23 (accepted 0x1023 s) (given 0x1023 s) := by
  unfold Accepted; decide

/-- I2cCommandsComplete, with an ACK and a NACK; UnansweredPrimitiveStallsItsAgent. -/
theorem test_hyps_I2cCommandsComplete :
    (∀ a ∈ [false, true],
      i2cAnswer (i2cSays [.completes a] (given_at 0x20 .i2c hc)) = .completes a ∧
      UnderWay 0x20 .i2c { accepted 0x20 hc with pos := .i2c } (i2cSays [.completes a] (given_at 0x20 .i2c hc)) ∧
      UnderWay 0x21 .i2c { accepted 0xC021 hc with pos := .i2c } (i2cSays [.completes a] (given_at 0xC021 .i2c hc)) ∧
      UnderWay 0x22 .i2c { accepted 0x22 hc with pos := .i2c } (i2cSays [.completes a] (given_at 0x22 .i2c hc))) ∧
    (∀ p ∈ [CmdPos.i2c, .dac 0, .dac 5],
      let s := turns [.cmd] (i2cSays [.never] (given_at 0x20 p hc))
      i2cAnswer s = .never ∧ s.turn = .cmd ∧ s.cur.map (·.pos) = some p ∧ s.busy = true) ∧
    (let s := turns [.cons] (i2cSays [.never] midPlay);
      i2cAnswer s = .never ∧ s.turn = .cons ∧ s.inHandler = true) := by unfold UnderWay; decide

/-- UnansweredPrimitiveStallsItsAgent: the other agents while the command engine waits, and while the handler waits. -/
theorem test_hyps_UnansweredPrimitiveStallsItsAgent :
    (let s := turns [.prod] (i2cSays [.never] (given_at 0x20 .i2c { hc with prod := .filling .upper { addr := 5, pos := .token 0 } }));
      i2cAnswer s = .never ∧ s.turn = .prod ∧ taskReady s = true ∧ s.prod ≠ .waiting) ∧
    (let s := turns [.prod] (i2cSays [.never] (given_at 0x31 (.dac 0) { hc with sem := 1, pending := some .lower }));
      i2cAnswer s = .never ∧ s.turn = .prod ∧ taskReady s = true ∧ s.prod = .waiting ∧ 0 < s.sem ∧ spiRunning s = false) ∧
    (let s := turns [.cons] (i2cSays [.never] { playing with tickLatch := true, playIndex := 399 });
      i2cAnswer s = .never ∧ s.turn = .cons ∧ s.playing = true ∧ s.tickLatch = true ∧ s.inHandler = false ∧
      s.playIndex.toNat < 400) ∧
    (let s := turns [.tickSrc] (i2cSays [.never] midPlay);
      i2cAnswer s = .never ∧ s.turn = .tickSrc ∧ s.playing = true ∧ s.tickLatch = false) ∧
    (let s := turns [.tickSrc] (i2cSays [.never] { midPlay with tickLatch := true });
      i2cAnswer s = .never ∧ s.turn = .tickSrc ∧ s.playing = true ∧ s.tickLatch = true) ∧
    (let s := turns [.host (.read 0xFFC 4)] (i2cSays [.never] midPlay);
      i2cAnswer s = .never ∧ s.turn = .host (.read 0xFFC 4) ∧ s.accessFault = none) ∧
    (let s := turns [.host (.write 0x000 4 0)] (i2cSays [.never] (given_at 0x20 .i2c hc));
      i2cAnswer s = .never ∧ s.turn = .host (.write 0x000 4 0) ∧ s.accessFault = none ∧ s.busy = true) := by decide

/-- NackActsAsAck. -/
theorem test_hyps_NackActsAsAck :
    let s := i2cSays [.completes true] (given_at 0xC021 .i2c { hc with i2cOpen := true })
    s.env.i2cIn = .completes true :: [] ∧ ∃ t, exec (.i2cWrite 0xC0) s = .next t := ⟨rfl, _, rfl⟩

/-- DacWriteEmitsItsSample; PbStopEmitsSilence, playing and not. -/
theorem test_hyps_DacWriteEmitsItsSample :
    let six : List I2cAnswer := [.completes true, .completes true, .completes false, .completes true, .completes true, .completes true]
    let s := i2cSays six (given 0x8023 hc)
    let p := i2cSays six (given 0x31 playing)
    Accepted 0x23 (accepted 0x8023 hc) s ∧ s.playing = false ∧ s.i2cOpen = false ∧ s.env.i2cIn = six ++ [] ∧
    Accepted 0x31 (accepted 0x31 playing) p ∧ p.playing = true ∧ p.env.i2cIn = six ++ [] ∧
    Accepted 0x31 (accepted 0x31 hc) (given 0x31 hc) ∧ hc.playing = false := by unfold Accepted; decide

/-- PbStartEnablesTheInterrupt: each of its four outcomes. -/
theorem test_hyps_PbStartEnablesTheInterrupt :
    ∀ s ∈ [{ hc with i2cOpen := true }, playing, hc, s0], Accepted 0x30 (accepted 0x30 s) (given 0x30 s) := by
  unfold Accepted; decide

/-- TickSourceLatchesOneTick. -/
theorem test_hyps_TickSourceLatchesOneTick :
    ∀ s ∈ [hc, playing, { playing with tickLatch := true }], (turns [.tickSrc] s).turn = .tickSrc := by decide

/-- TickEntersTheHandler: the last index of the lower half and the first of the upper, with the producer in Lower. -/
theorem test_hyps_TickEntersTheHandler :
    ∀ i ∈ ([199, 200, 399] : List (BitVec 9)),
      let s : State := { playing with tickLatch := true, playIndex := i, prod := .filling .lower { addr := 100, pos := .token 0 } }
      s.playing = true ∧ s.tickLatch = true ∧ s.inHandler = false ∧ s.playIndex.toNat < 400 ∧ s.prod ≠ .waiting := by decide

/-- TickEntersTheHandler: no entry during playback without a latch, nor while stopped; a completion inside the handler with a tick
latched. -/
theorem test_hyps_TickEntersTheHandler_only :
    (∀ s ∈ [playing, hc, { hc with tickLatch := true }],
      s.inHandler = false ∧ ¬ (s.playing = true ∧ s.tickLatch = true)) ∧
    midPlay.inHandler = true ∧
    check (exec .tick (i2cSays [.completes true] { midPlay with tickLatch := true }))
      (fun t => t.tickLatch && t.inHandler) = true := by decide

/-- HandlerLeavesTheTasks: each of the five completions before the STOP, with a tick latched. -/
theorem test_hyps_HandlerLeavesTheTasks_frame :
    ∀ k ∈ [(0 : Fin 7), 1, 2, 3, 4],
      let s := i2cSays [.completes false] { playing with inHandler := true, hpos := k, i2cOpen := k != 0, tickLatch := true }
      s.inHandler = true ∧ s.hpos.val < 5 ∧ i2cAnswer s = .completes false ∧ s.tickLatch = true := by decide

/-- HandlerExitAdvancesTheIndex: no crossing, both crossings; an index has one clause. -/
theorem test_hyps_HandlerExitAdvancesTheIndex :
    ∀ i ∈ ([198, 199, 399] : List (BitVec 9)),
      let s := i2cSays [.completes false] { playing with inHandler := true, hpos := 5, i2cOpen := true, playIndex := i }
      s.inHandler = true ∧ s.hpos = 5 ∧ i2cAnswer s = .completes false ∧ s.playIndex.toNat < 400 := by decide

/-- HandlerLeavesTheTasks: an entry and an exit. -/
theorem test_hyps_HandlerLeavesTheTasks :
    (∃ t, exec .tick { playing with tickLatch := true } = .next t) ∧
    (∃ t, exec .tick (i2cSays [.completes true] { midPlay with hpos := 5 }) = .next t) := ⟨⟨_, rfl⟩, ⟨_, rfl⟩⟩

/-- TicksPlayTheRingAndSignalCrossings: two ticks across the end of the ring. -/
theorem test_hyps_TicksPlayTheRingAndSignalCrossings :
    let s := i2cSays (List.replicate 12 (.completes true)) { playing with playIndex := 399 }
    s.playing = true ∧ s.tickLatch = false ∧ s.inHandler = false ∧ s.playIndex.toNat < 400 ∧ I2cCompletes (6 * 2) s := by
  unfold I2cCompletes; decide

/-- TasksWaitForTheHandler: both grounds, for both tasks. -/
theorem test_hyps_TasksWaitForTheHandler :
    midPlay.inHandler = true ∧ ({ playing with tickLatch := true } : State).playing = true ∧
    (turns [.cmd] midPlay).turn = .cmd ∧ (turns [.prod] midPlay).turn = .prod ∧ Instr.refill ≠ .tick := by decide

/-- A latched tick, then PB_STOP with its silence frame, and a host that has faulted: after fourteen steps nothing is enabled. -/
def lastTick : State :=
  turns (List.replicate 7 .cons ++ List.replicate 7 .cmd) (i2cSays (List.replicate 12 (.completes true))
    (given 0x31 { playing with tickLatch := true, accessFault := some 0x011 }))

/-- The run from `lastTick`. -/
def lastRun : Nat → State
  | 0 => lastTick
  | n + 1 =>
    match step (lastRun n) with
    | .next t => t
    | .fault _ => lastRun n
    | .refused _ => lastRun n

/-- Quiescent, without a command, and the host has faulted. -/
def dead (s : State) : Bool :=
  !s.playing && s.cur.isNone && s.prod == .waiting && s.sem == 0 && !s.inHandler && s.accessFault.isSome

theorem dead_agentStep {s : State} (h : dead s = true) : agentStep s = .refused .noStep := by
  simp only [dead, Bool.and_eq_true, Bool.not_eq_true', beq_iff_eq, Option.isNone_iff_eq_none] at h
  obtain ⟨⟨⟨⟨⟨hpl, hc⟩, hp⟩, hs⟩, hh⟩, ha⟩ := h
  unfold agentStep
  split
  · simp [hostAgent, ha]
  · simp [tickSourceAgent, hpl]
  · simp [commandAgent, hc]
  · simp [producerAgent, hp, Producer.current, exec, execRefill, hs]
  · simp [consumerAgent, exec, execTick, hh, hpl]

theorem dead_lastRun (n : Nat) : dead (lastRun (14 + n)) = true := by
  induction n with
  | zero => decide
  | succ n ih =>
    have hs : lastRun (14 + (n + 1)) = (lastRun (14 + n)).advance := by
      show lastRun (14 + n + 1) = _
      rw [lastRun, step, dead_agentStep ih]
      rfl
    rw [hs]
    exact ih

theorem lastRun_isRun : IsRun lastRun := by
  intro n
  by_cases hn : n < 14
  · interval_cases n <;> rfl
  · obtain ⟨m, rfl⟩ := Nat.exists_eq_add_of_le (Nat.le_of_not_lt hn)
    rw [lastRun, step, dead_agentStep (dead_lastRun m)]
    rfl

theorem lastRun_fair (a : Turn) : WeaklyFair a lastRun := by
  intro n h
  have hd : dead ((lastRun (14 + n)).withTurn a) = true := dead_lastRun n
  have hn := h (14 + n) (Nat.le_add_left n 14)
  rw [enabled, dead_agentStep hd] at hn
  cases hn

/-- TasksWaitForTheHandler: a fair run with a latched tick at its start. -/
theorem test_hyps_TasksWaitForTheHandler_run :
    FairRun lastRun ∧ (lastRun 0).playing = true ∧ (lastRun 0).tickLatch = true ∧ (lastRun 0).inHandler = false :=
  ⟨⟨lastRun_isRun, lastRun_fair _, lastRun_fair _, lastRun_fair _, lastRun_fair _⟩, rfl, rfl, rfl⟩

/-- HistoryGrowsByOneBusActionAStep: a run that respects the real-time bound at its start, with neither flag set. -/
theorem test_hyps_HistoryGrows_run :
    IsRun lastRun ∧ RespectsRealTime (lastRun 0) ∧ (lastRun 0).underrun = false ∧ (lastRun 0).sigOverrun = false :=
  ⟨lastRun_isRun, ⟨by decide, by decide⟩, rfl, rfl⟩

/-- RefillWakeTakesTheSignal: no request, and a request with each kind of card. -/
theorem test_hyps_RefillWakeTakesTheSignal :
    ∀ s ∈ [{ hc with sem := 1 }, { hc with sem := 2, pending := some .upper },
        { s0 with sem := 1, pending := some .lower, card := .failed }],
      s.prod = .waiting ∧ 0 < s.sem ∧ taskReady s = true ∧ spiRunning s = false := by decide

/-- RefillFillsItsHalf, for both halves. -/
theorem test_hyps_RefillFillsItsHalf :
    ∀ h : Half,
    let frame : List Byte := List.replicate 6 0xFF
    let answers := readAnswers frame [0xFF] [0xFF] (List.replicate 512 0x05) [0, 0]
    let s := cardSays answers { hc with sem := 1, pending := some h, cursor := 2 }
    s.prod = .waiting ∧ 0 < s.sem ∧ s.pending = some h ∧ taskReady s = true ∧ spiRunning s = false ∧
    s.card.ready = true ∧ memoryWf s.ring = true ∧ frame.length = 6 ∧ PollGoesOn s.cfg [0xFF] ∧
    TokenPollGoesOn s.cfg [0xFF] ∧ (List.replicate 512 (0x05 : Byte)).length = 512 ∧ ([0, 0] : List Byte).length = 2 ∧
    s.env.cardIn = answers ++ [] :=
  fun _ => ⟨rfl, Nat.one_pos, rfl, rfl, rfl, rfl, rfl, rfl, test_hyps_polls.1, test_hyps_polls.2,
    List.length_replicate, rfl, (List.append_nil _).symm⟩

/-- RefillErrorIsFlagged: a rejection, the end of the R1 poll, the end of the token poll. -/
theorem test_hyps_RefillErrorIsFlagged :
    (let s := cardSays [0x04] { hc with prod := .filling .upper { addr := 1, pos := .command (.poll 0) } };
      taskReady s = true ∧ (cardAnswer s).getLsbD 7 = false ∧ cardAnswer s ≠ 0x00) ∧
    (let s := cardSays [0xFF] { hc with prod := .filling .upper { addr := 1, pos := .command (.poll 7) } };
      taskReady s = true ∧ s.cfg.r1PollLimit ≤ 7 + 1 ∧ cardAnswer s ≠ 0x00) ∧
    (let s := cardSays [0x08] { hc with prod := .filling .lower { addr := 1, pos := .token 7 } };
      taskReady s = true ∧ s.cfg.tokenPollLimit ≤ 7 + 1 ∧ cardAnswer s ≠ 0xFE) := by decide

/-- DivisorInfluencesNothing: two states that differ in both. -/
theorem test_hyps_DivisorInfluencesNothing :
    let s := turns [.host (.read 0x014 4)] s0
    let s' : State := { s with div := 2, env := { s.env with readData := 7 } }
    SameButDivisor s s' ∧ s ≠ s' ∧ ∃ t, step s = .next t ∧ t.env.readData = 128 := ⟨rfl, by decide, _, rfl, by decide⟩

end Sys2Proof.Tests
end

section
/-! The SPI divisor and the value the host last read influence nothing else (R22, R108): every operation of the block, run
from two states that differ only there, comes to outcomes that differ only there. -/

namespace Sys2Proof.Machine

open Sys2Proof.Safety

/-- `s` with another `DIV` and another value last read by the host. -/
def setDivRead (d : Short) (v : Word) (s : State) : State := { s with div := d, env := { s.env with readData := v } }

theorem sameButDivisor_iff {s s' : State} : SameButDivisor s s' ↔ ∃ d v, s' = setDivRead d v s :=
  ⟨fun h => ⟨_, _, h⟩, fun ⟨_, _, h⟩ => h ▸ rfl⟩

/-- Two outcomes of the same kind, with next states that differ at most in `DIV` and in the value last read. -/
inductive SameOutcome : Outcome → Outcome → Prop
  | next {t t' : State} : SameButDivisor t t' → SameOutcome (.next t) (.next t')
  | fault (f : Fault) : SameOutcome (.fault f) (.fault f)
  | refused (r : Refusal) : SameOutcome (.refused r) (.refused r)

theorem SameOutcome.exists_next {t : State} {o : Outcome} (h : SameOutcome (.next t) o) :
    ∃ t', o = .next t' ∧ SameButDivisor t t' := by
  cases h with
  | next h => exact ⟨_, rfl, h⟩

theorem SameOutcome.ite {p : Prop} [Decidable p] {o₁ o₁' o₂ o₂' : Outcome} (h₁ : SameOutcome o₁ o₁')
    (h₂ : SameOutcome o₂ o₂') : SameOutcome (if p then o₁ else o₂) (if p then o₁' else o₂') := by
  split
  exacts [h₁, h₂]

theorem sameButDivisor_ite {p : Prop} [Decidable p] {t₁ t₁' t₂ t₂' : State} (h₁ : SameButDivisor t₁ t₁')
    (h₂ : SameButDivisor t₂ t₂') : SameButDivisor (if p then t₁ else t₂) (if p then t₁' else t₂') := by
  split
  exacts [h₁, h₂]

section
variable (d : Short) (v : Word) (s : State)

@[simp] theorem setDivRead_cur : (setDivRead d v s).cur = s.cur := rfl
@[simp] theorem setDivRead_prod : (setDivRead d v s).prod = s.prod := rfl
@[simp] theorem setDivRead_pending : (setDivRead d v s).pending = s.pending := rfl
@[simp] theorem setDivRead_cfg : (setDivRead d v s).cfg = s.cfg := rfl
@[simp] theorem setDivRead_hsample : (setDivRead d v s).hsample = s.hsample := rfl
@[simp] theorem setDivRead_hpos : (setDivRead d v s).hpos = s.hpos := rfl
@[simp] theorem setDivRead_playIndex : (setDivRead d v s).playIndex = s.playIndex := rfl
@[simp] theorem setDivRead_turn : (setDivRead d v s).turn = s.turn := rfl
@[simp] theorem setDivRead_taskReady : taskReady (setDivRead d v s) = taskReady s := rfl

/-! ### Commands -/

theorem onCommand_setDivRead (i : Instr) {body body' : Command → Outcome}
    (h : ∀ c, SameOutcome (body c) (body' c)) :
    SameOutcome (onCommand i s body) (onCommand i (setDivRead d v s) body') := by
  simp only [onCommand, setDivRead_cur, setDivRead_taskReady]
  cases s.cur with
  | none => exact .refused _
  | some c => exact .ite (h c) (.refused _)

theorem inDecodeStep_setDivRead (i : Instr) {effect effect' : Command → State}
    (h : ∀ c, SameButDivisor (effect c) (effect' c)) :
    SameOutcome (inDecodeStep i s effect) (inDecodeStep i (setDivRead d v s) effect') :=
  onCommand_setDivRead d v s i fun c => .ite (.next (h c)) (.refused _)

theorem unlessSpiBusy_setDivRead {t t' : State} (h : SameButDivisor t t') :
    SameButDivisor (unlessSpiBusy s t) (unlessSpiBusy (setDivRead d v s) t') :=
  sameButDivisor_ite rfl h

theorem illegalCommand_setDivRead (c : Command) :
    SameOutcome (illegalCommand c s) (illegalCommand c (setDivRead d v s)) :=
  .ite (.next rfl) (.refused _)

theorem execPbStart_setDivRead : SameOutcome (execPbStart s) (execPbStart (setDivRead d v s)) :=
  inDecodeStep_setDivRead d v s _ fun _ =>
    sameButDivisor_ite rfl (sameButDivisor_ite rfl (sameButDivisor_ite rfl rfl))

/-! ### I2C primitives -/

theorem completePrim_setDivRead (prim : I2cPrim) (ack : Bool) :
    completePrim prim ack (setDivRead d v s) = setDivRead d v (completePrim prim ack s) := by
  cases prim <;> rfl

theorem i2cStep_setDivRead (prim : I2cPrim) :
    i2cStep prim (setDivRead d v s) = (i2cStep prim s).map (setDivRead d v) := by
  have hanswer : i2cAnswer (setDivRead d v s) = i2cAnswer s := rfl
  simp only [i2cStep, hanswer]
  cases i2cAnswer s with
  | completes ack => exact congrArg some (completePrim_setDivRead d v (takeI2cAnswer s) prim ack)
  | never => rfl

theorem i2cDecode_setDivRead (needs : Bool) (p : CmdPos) :
    SameButDivisor (i2cDecode needs p s) (i2cDecode needs p (setDivRead d v s)) :=
  sameButDivisor_ite rfl (sameButDivisor_ite rfl rfl)

theorem singlePrim_setDivRead (i : Instr) (needs : Bool) (prim : I2cPrim) :
    SameOutcome (singlePrim i needs prim s) (singlePrim i needs prim (setDivRead d v s)) := by
  refine onCommand_setDivRead d v s i fun c => ?_
  cases c.pos with
  | decode => exact .next (i2cDecode_setDivRead d v s needs .i2c)
  | i2c =>
    simp only [singlePrimStep, i2cStep_setDivRead]
    cases i2cStep prim s with
    | none => exact .refused _
    | some t => exact .next rfl
  | wake _ | init _ | read _ | dac _ => exact .refused _

theorem afterDacPrim_setDivRead (k : Fin 6) :
    SameButDivisor (afterDacPrim k s) (afterDacPrim k (setDivRead d v s)) := by
  unfold afterDacPrim
  split <;> rfl

theorem commandDacStep_setDivRead (sample : Byte) (k : Fin 6) :
    SameOutcome (commandDacStep sample k s) (commandDacStep sample k (setDivRead d v s)) := by
  simp only [commandDacStep, setDivRead_cfg]
  cases (dacFrame s.cfg sample)[k.val]? with
  | none => exact .refused _
  | some prim =>
    simp only [i2cStep_setDivRead]
    cases i2cStep prim s with
    | none => exact .refused _
    | some t => exact .next (afterDacPrim_setDivRead d v t k)

theorem execDacWrite_setDivRead (sample : Byte) :
    SameOutcome (execDacWrite sample s) (execDacWrite sample (setDivRead d v s)) := by
  refine onCommand_setDivRead d v s _ fun c => ?_
  cases c.pos with
  | decode => exact .next (i2cDecode_setDivRead d v s false (.dac 0))
  | dac k => exact commandDacStep_setDivRead d v s sample k
  | wake _ | init _ | read _ | i2c => exact .refused _

theorem execPbStop_setDivRead : SameOutcome (execPbStop s) (execPbStop (setDivRead d v s)) := by
  refine onCommand_setDivRead d v s _ fun c => ?_
  cases c.pos with
  | decode => exact .next (sameButDivisor_ite rfl rfl)
  | dac k => exact commandDacStep_setDivRead d v s s.cfg.silenceSample k
  | wake _ | init _ | read _ | i2c => exact .refused _

/-! ### SD commands -/

theorem wakeStep_setDivRead (sent : Fin 10) :
    SameButDivisor (wakeStep sent s) (wakeStep sent (setDivRead d v s)) := by
  unfold wakeStep
  split <;> rfl

theorem initResponse_setDivRead (c : InitCommand) (r : Byte) :
    SameButDivisor (initResponse c r s) (initResponse c r (setDivRead d v s)) := by
  cases c with
  | goIdle | ifCond | readOcr => exact sameButDivisor_ite rfl rfl
  | appCmd used => rfl
  | opCond used => exact sameButDivisor_ite rfl (sameButDivisor_ite rfl rfl)

theorem selectBefore_setDivRead (c : InitCommand) (k : Fin 6) :
    selectBefore c k (setDivRead d v s) = setDivRead d v (selectBefore c k s) := by
  unfold selectBefore
  split <;> rfl

theorem initStep_setDivRead (p : InitPos) : SameButDivisor (initStep p s) (initStep p (setDivRead d v s)) := by
  cases p with
  | command c p =>
    cases p with
    | frame k =>
      simp only [initStep, selectBefore_setDivRead]
      rfl
    | poll polled => exact sameButDivisor_ite (initResponse_setDivRead d v (recv s) c (cardAnswer s)) rfl
  | ifCondReply k =>
    simp only [initStep]
    split
    · rfl
    · exact sameButDivisor_ite rfl rfl
  | ocrReply k o =>
    simp only [initStep]
    split <;> rfl

theorem readTransfer_setDivRead (dst : Dest) (offset length : Nat) (addr : Word) (p : ReadPos) :
    readTransfer dst offset length addr p (setDivRead d v s) =
      setDivRead d v (readTransfer dst offset length addr p s) := by
  simp only [readTransfer_eq]
  rfl

theorem readStep_setDivRead (dst : Dest) (offset length : Nat) (r : ReadSeq) :
    readStep dst offset length r (setDivRead d v s) =
      ((readStep dst offset length r s).1, setDivRead d v (readStep dst offset length r s).2) := by
  have hanswer : cardAnswer (setDivRead d v s) = cardAnswer s := rfl
  simp only [readStep_eq, readTransfer_setDivRead, setDivRead_cfg, hanswer]
  split <;> rfl

theorem commandReadStep_setDivRead (c : Command) (r : ReadSeq) :
    SameButDivisor (commandReadStep c r s) (commandReadStep c r (setDivRead d v s)) := by
  simp only [commandReadStep, readStep_setDivRead]
  rcases readStep .scratch c.offset c.length r s with ⟨p | code, t⟩ <;> rfl

theorem sdInitDecode_setDivRead : SameButDivisor (sdInitDecode s) (sdInitDecode (setDivRead d v s)) :=
  unlessSpiBusy_setDivRead d v s (sameButDivisor_ite rfl rfl)

theorem execSdInit_setDivRead : SameOutcome (execSdInit s) (execSdInit (setDivRead d v s)) := by
  refine onCommand_setDivRead d v s _ fun c => ?_
  cases c.pos with
  | decode => exact .next (sdInitDecode_setDivRead d v s)
  | wake sent => exact .next (wakeStep_setDivRead d v s sent)
  | init p => exact .next (initStep_setDivRead d v s p)
  | read _ | i2c | dac _ => exact .refused _

theorem sdReadDecode_setDivRead (c : Command) :
    SameButDivisor (sdReadDecode c s) (sdReadDecode c (setDivRead d v s)) :=
  unlessSpiBusy_setDivRead d v s
    (sameButDivisor_ite rfl (sameButDivisor_ite (commandReadStep_setDivRead d v s c _) rfl))

theorem execSdRead_setDivRead : SameOutcome (execSdRead s) (execSdRead (setDivRead d v s)) := by
  refine onCommand_setDivRead d v s _ fun c => ?_
  cases c.pos with
  | decode => exact .next (sdReadDecode_setDivRead d v s c)
  | read r => exact .next (commandReadStep_setDivRead d v s c r)
  | wake _ | init _ | i2c | dac _ => exact .refused _

theorem onInitWire_setDivRead (i : Instr) : SameOutcome (onInitWire i s) (onInitWire i (setDivRead d v s)) := by
  simp only [onInitWire, setDivRead_cur, setDivRead_taskReady]
  cases s.cur with
  | none => exact .refused _
  | some c =>
    simp only
    cases c.pos with
    | init p => exact .ite (.next (initStep_setDivRead d v s p)) (.refused _)
    | decode | wake _ | read _ | i2c | dac _ => exact .refused _

/-! ### The producer and the consumer -/

theorem finishRefill_setDivRead (h : Half) (code : ResultCode) :
    SameButDivisor (finishRefill h code s) (finishRefill h code (setDivRead d v s)) := by
  unfold finishRefill noteRefillResult
  cases h <;> split <;> rfl

theorem producerReadStep_setDivRead (h : Half) (r : ReadSeq) :
    SameButDivisor (producerReadStep h r s) (producerReadStep h r (setDivRead d v s)) := by
  simp only [producerReadStep, readStep_setDivRead]
  rcases readStep .ring (halfOffset h) halfSize r s with ⟨p | code, t⟩
  · rfl
  · exact finishRefill_setDivRead d v t h code

theorem refillWake_setDivRead : SameButDivisor (refillWake s) (refillWake (setDivRead d v s)) := by
  simp only [refillWake, setDivRead_pending]
  cases s.pending with
  | none => rfl
  | some h =>
    exact sameButDivisor_ite (producerReadStep_setDivRead d v { s with sem := s.sem - 1, pending := none } h _) rfl

theorem execRefill_setDivRead : SameOutcome (execRefill s) (execRefill (setDivRead d v s)) := by
  simp only [execRefill, setDivRead_taskReady, setDivRead_prod]
  refine .ite ?_ (.refused _)
  cases s.prod with
  | waiting => exact .ite (.next (refillWake_setDivRead d v s)) (.refused _)
  | filling h r => exact .next (producerReadStep_setDivRead d v s h r)

theorem commandReadBlock_setDivRead (addr : Word) :
    SameOutcome (commandReadBlock addr s) (commandReadBlock addr (setDivRead d v s)) := by
  simp only [commandReadBlock, setDivRead_cur]
  cases s.cur with
  | none => exact .refused _
  | some c =>
    simp only
    cases c.pos with
    | read r => exact .ite (.next (commandReadStep_setDivRead d v s c r)) (.refused _)
    | decode | wake _ | init _ | i2c | dac _ => exact .refused _

theorem producerReadBlock_setDivRead (addr : Word) :
    SameOutcome (producerReadBlock addr s) (producerReadBlock addr (setDivRead d v s)) := by
  simp only [producerReadBlock, setDivRead_prod]
  cases s.prod with
  | waiting => exact .refused _
  | filling h r => exact .ite (.next (producerReadStep_setDivRead d v s h r)) (.refused _)

theorem execReadSingleBlock_setDivRead (addr : Word) :
    SameOutcome (execReadSingleBlock addr s) (execReadSingleBlock addr (setDivRead d v s)) := by
  simp only [execReadSingleBlock, setDivRead_taskReady, setDivRead_turn]
  refine .ite ?_ (.refused _)
  cases s.turn with
  | cmd => exact commandReadBlock_setDivRead d v s addr
  | prod => exact producerReadBlock_setDivRead d v s addr
  | host _ | cons | tickSrc => exact .refused _

theorem enterHandler_setDivRead : SameButDivisor (enterHandler s) (enterHandler (setDivRead d v s)) := by
  simp only [enterHandler_eq]
  rfl

theorem advancePlayIndex_setDivRead :
    advancePlayIndex (setDivRead d v s) = setDivRead d v (advancePlayIndex s) := by
  simp only [advancePlayIndex, setDivRead_playIndex, signal_eq]
  split
  · rfl
  · split <;> rfl

theorem exitHandler_setDivRead : exitHandler (setDivRead d v s) = setDivRead d v (exitHandler s) := by
  simp only [exitHandler, advancePlayIndex_setDivRead]
  rfl

theorem handlerAdvance_setDivRead :
    SameButDivisor (handlerAdvance s) (handlerAdvance (setDivRead d v s)) := by
  have hexit := exitHandler_setDivRead d v { s with hpos := s.hpos + 1 }
  exact sameButDivisor_ite (sameButDivisor_iff.2 ⟨d, v, hexit⟩) rfl

theorem execTick_setDivRead : SameOutcome (execTick s) (execTick (setDivRead d v s)) := by
  refine .ite ?_ (.ite (.ite (.next (enterHandler_setDivRead d v s)) (.fault _)) (.refused _))
  simp only [handlerStep, setDivRead_cfg, setDivRead_hsample, setDivRead_hpos]
  cases (dacFrame s.cfg s.hsample)[s.hpos.val]? with
  | none => exact .refused _
  | some prim =>
    simp only [i2cStep_setDivRead]
    cases i2cStep prim s with
    | none => exact .refused _
    | some t => exact .next (handlerAdvance_setDivRead d v t)

/-! ### The host, the agents and the step -/

theorem writeRegister_setDivRead (off : Nat) (w : Word) :
    SameButDivisor (writeRegister off w s) (writeRegister off w (setDivRead d v s)) :=
  sameButDivisor_ite (sameButDivisor_ite rfl rfl)
    (sameButDivisor_ite rfl (sameButDivisor_ite rfl (sameButDivisor_ite rfl rfl)))

theorem hostStep_setDivRead (a : HostAccess) :
    SameButDivisor (hostStep a s) (hostStep a (setDivRead d v s)) := by
  refine sameButDivisor_ite rfl (sameButDivisor_ite ?_ rfl)
  cases a with
  | read off size => rfl
  | write off size w => exact writeRegister_setDivRead d v s off w

/-- Every instruction comes to the same outcome, up to `DIV` and the value last read. -/
theorem exec_setDivRead (i : Instr) : SameOutcome (exec i s) (exec i (setDivRead d v s)) := by
  cases i with
  | nop | clrFlags => exact inDecodeStep_setDivRead d v s _ fun _ => rfl
  | spiXfer _ | spiSend _ | spiRecv | spiSetDiv | spiSelect | spiDeselect =>
    exact inDecodeStep_setDivRead d v s _ fun _ => unlessSpiBusy_setDivRead d v s rfl
  | sdInit => exact execSdInit_setDivRead d v s
  | sdRead => exact execSdRead_setDivRead d v s
  | i2cStart | i2cWrite _ | i2cStop => exact singlePrim_setDivRead d v s _ _ _
  | dacWrite sample => exact execDacWrite_setDivRead d v s sample
  | pbStart => exact execPbStart_setDivRead d v s
  | pbStop => exact execPbStop_setDivRead d v s
  | tick => exact execTick_setDivRead d v s
  | refill => exact execRefill_setDivRead d v s
  | goIdleState | sendIfCond | appCmd | sendOpCond | readOcr => exact onInitWire_setDivRead d v s _
  | readSingleBlock addr => exact execReadSingleBlock_setDivRead d v s addr

theorem commandAgent_setDivRead : SameOutcome (commandAgent s) (commandAgent (setDivRead d v s)) := by
  simp only [commandAgent, setDivRead_cur]
  cases s.cur with
  | none => exact .refused _
  | some c =>
    simp only
    cases c.current with
    | ok i => exact exec_setDivRead d v s i
    | error _ => exact illegalCommand_setDivRead d v s c

theorem agentStep_setDivRead : SameOutcome (agentStep s) (agentStep (setDivRead d v s)) := by
  simp only [agentStep, setDivRead_turn]
  cases s.turn with
  | host a => exact .ite (.refused _) (.next (hostStep_setDivRead d v s a))
  | tickSrc => exact .ite (.next (sameButDivisor_ite (sameButDivisor_ite rfl rfl) rfl)) (.refused _)
  | cmd => exact commandAgent_setDivRead d v s
  | prod => exact exec_setDivRead d v s s.prod.current
  | cons => exact exec_setDivRead d v s .tick

theorem settle_setDivRead {o o' : Outcome} (h : SameOutcome o o') :
    SameOutcome (settle s o) (settle (setDivRead d v s) o') := by
  cases h with
  | next ht =>
    obtain ⟨e, w, rfl⟩ := sameButDivisor_iff.1 ht
    exact .next rfl
  | fault f => exact .fault f
  | refused r => exact .ite (.next rfl) (.refused r)

theorem step_setDivRead : SameOutcome (step s) (step (setDivRead d v s)) :=
  settle_setDivRead d v s (agentStep_setDivRead d v s)

end

/-- Settles O60: the step respects the relation, since every operation does. -/
theorem divisorInfluencesNothing : Obligations.DivisorInfluencesNothing := by
  intro s s' t hs ht
  obtain ⟨d, v, rfl⟩ := sameButDivisor_iff.1 hs
  exact SameOutcome.exists_next (ht ▸ step_setDivRead d v s)

end Sys2Proof.Machine
end

section
/-! What the step of each agent runs (R20, R21), and what it comes to while the handler holds the tasks (R409, R620). -/

namespace Sys2Proof.Machine

open Sys2Proof.Safety

/-! ### The step by its turn -/

section
variable {s : State}

theorem step_of_turn_cmd {c : Command} {i : Instr} (hturn : s.turn = .cmd) (hc : s.cur = some c)
    (hi : c.current = .ok i) : step s = settle s (exec i s) := by
  simp only [step, agentStep, hturn, commandAgent, hc, hi]

theorem step_of_turn_cmd_idle (hturn : s.turn = .cmd) (hc : s.cur = none) : step s = .next s.advance := by
  simp [step, agentStep, hturn, commandAgent, hc, settle]

theorem step_of_turn_prod (hturn : s.turn = .prod) : step s = settle s (exec s.prod.current s) := by
  simp only [step, agentStep, hturn, producerAgent]

theorem step_of_turn_cons (hturn : s.turn = .cons) : step s = settle s (exec .tick s) := by
  simp only [step, agentStep, hturn, consumerAgent]

/-- A host that has faulted has no step, and its access then has no effect either. -/
theorem step_of_turn_host {a : HostAccess} (hturn : s.turn = .host a) : step s = .next (hostStep a s).advance := by
  simp only [step, agentStep, hturn, hostAgent]
  split
  · simp [settle, hostStep, *]
  · rfl

/-- While playback is stopped the tick source has no step, and a tick then has no effect either. -/
theorem step_of_turn_tickSrc (hturn : s.turn = .tickSrc) : step s = .next (tickSource s).advance := by
  simp only [step, agentStep, hturn, tickSourceAgent]
  split
  · rfl
  · simp [settle, tickSource, *]

end

/-- Settles O5: one fact for each agent. -/
theorem stepRunsTheInstructionUnderWay : Obligations.StepRunsTheInstructionUnderWay := fun s =>
  ⟨fun _ _ => step_of_turn_cmd, step_of_turn_cmd_idle, step_of_turn_prod, step_of_turn_cons,
    fun _ => step_of_turn_host, step_of_turn_tickSrc,
    fun c hpos => by simp only [Command.current, hpos, Command.instr], fun _ => rfl, rfl, rfl⟩

/-! ### What the host leaves unchanged -/

theorem writeRegister_frame (off : Nat) (w : Word) (s : State) :
    writeRegister off w s = { s with
      busy := (writeRegister off w s).busy, cur := (writeRegister off w s).cur
      block := (writeRegister off w s).block, xfer := (writeRegister off w s).xfer
      divreq := (writeRegister off w s).divreq, cmdLost := (writeRegister off w s).cmdLost } := by
  unfold writeRegister
  split_ifs
  · unfold issue
    split <;> rfl
  all_goals rfl

/-- An access writes `BUSY`, `CUR`, the argument registers, `CMD_LOST`, the `AccessFault` record and the value last read,
and nothing else (R125, R205 to R207). -/
theorem hostStep_frame (a : HostAccess) (s : State) :
    hostStep a s = { s with
      busy := (hostStep a s).busy, cur := (hostStep a s).cur, block := (hostStep a s).block
      xfer := (hostStep a s).xfer, divreq := (hostStep a s).divreq, cmdLost := (hostStep a s).cmdLost
      accessFault := (hostStep a s).accessFault, env := (hostStep a s).env } := by
  unfold hostStep
  split_ifs
  · rfl
  · cases a with
    | read off size => rfl
    | write off size w =>
      simp only [takenAccess]
      rw [writeRegister_frame]
  · rfl

/-! ### The tasks while the handler holds them -/

section
variable {s : State}

theorem onInitWire_not_ready (i : Instr) (h : taskReady s = false) : onInitWire i s = .refused .noStep := by
  simp only [onInitWire, h]
  cases s.cur with
  | none => rfl
  | some c => cases hpos : c.pos <;> simp [hpos]

/-- No operation but the handler has a step while the tasks are held (R620). -/
theorem exec_not_ready {i : Instr} (hi : i ≠ .tick) (h : taskReady s = false) : exec i s = .refused .noStep := by
  cases i with
  | tick => exact absurd rfl hi
  | refill => simp [exec, execRefill, h]
  | readSingleBlock addr => simp [exec, execReadSingleBlock, h]
  | goIdleState | sendIfCond | appCmd | sendOpCond | readOcr => exact onInitWire_not_ready _ h
  | nop | spiXfer _ | spiSend _ | spiRecv | spiSetDiv | spiSelect | spiDeselect | sdInit | sdRead | i2cStart
  | i2cWrite _ | i2cStop | dacWrite _ | pbStart | pbStop | clrFlags => exact onCommand_not_ready h

theorem Producer.current_ne_tick (p : Producer) : p.current ≠ .tick := by
  cases p <;> simp [Producer.current]

theorem commandAgent_not_ready (h : taskReady s = false) : commandAgent s = .refused .noStep := by
  unfold commandAgent
  split
  · rfl
  · split
    · rename_i hi
      exact exec_not_ready (Command.current_encoded hi).1 h
    · simp [illegalCommand, h]

theorem producerAgent_not_ready (h : taskReady s = false) : producerAgent s = .refused .noStep :=
  exec_not_ready s.prod.current_ne_tick h

theorem agentStep_task_not_ready (hturn : s.turn = .cmd ∨ s.turn = .prod) (h : taskReady s = false) :
    agentStep s = .refused .noStep := by
  unfold agentStep
  rcases hturn with hturn | hturn <;> simp only [hturn]
  exacts [commandAgent_not_ready h, producerAgent_not_ready h]

theorem step_task_not_ready (hturn : s.turn = .cmd ∨ s.turn = .prod) (h : taskReady s = false) :
    step s = .next s.advance := by
  simp [step, agentStep_task_not_ready hturn h, settle]

theorem enabled_cmd_not_ready (h : taskReady s = false) : enabled .cmd s = false := by
  simp only [enabled, agentStep_task_not_ready (s := s.withTurn .cmd) (.inl rfl) h, takesStep]

theorem enabled_prod_not_ready (h : taskReady s = false) : enabled .prod s = false := by
  simp only [enabled, agentStep_task_not_ready (s := s.withTurn .prod) (.inr rfl) h, takesStep]

theorem taskReady_eq_false : taskReady s = false ↔ s.inHandler = true ∨ (s.playing = true ∧ s.tickLatch = true) := by
  cases hin : s.inHandler <;> cases hpl : s.playing <;> cases htl : s.tickLatch <;> simp [taskReady, hin, hpl, htl]

/-! ### A latched tick is taken -/

/-- A tick is latched during playback and the handler has not entered (R536). -/
def TickWaits (s : State) : Prop := s.playing = true ∧ s.tickLatch = true ∧ s.inHandler = false

theorem TickWaits.not_ready (h : TickWaits s) : taskReady s = false := by
  obtain ⟨hpl, htl, -⟩ := h
  exact taskReady_eq_false.2 (.inr ⟨hpl, htl⟩)

theorem execTick_of_tickWaits (h : TickWaits s) :
    execTick s = if s.playIndex.toNat < ringSize then .next (enterHandler s) else .fault .ringIndex := by
  obtain ⟨hpl, htl, hin⟩ := h
  simp [execTick, hpl, htl, hin]

theorem enabled_cons_of_tickWaits (h : TickWaits s) : enabled .cons s = true := by
  have hwaits : TickWaits (s.withTurn .cons) := h
  have hagent : agentStep (s.withTurn .cons) = execTick (s.withTurn .cons) := rfl
  rw [enabled, hagent, execTick_of_tickWaits hwaits]
  split <;> rfl

/-- The consumer's step takes the tick. -/
theorem step_cons_of_tickWaits {t : State} (h : TickWaits s) (hturn : s.turn = .cons) (hstep : step s = .next t) :
    t.inHandler = true := by
  rw [step_of_turn_cons hturn, exec, execTick_of_tickWaits h] at hstep
  split at hstep <;> cases hstep
  simp [enterHandler]

theorem hostStep_tickWaits (a : HostAccess) (h : TickWaits s) : TickWaits (hostStep a s) := by
  rw [hostStep_frame]
  exact h

theorem tickSource_tickWaits (h : TickWaits s) : TickWaits (tickSource s) := by
  obtain ⟨hpl, htl, hin⟩ := h
  simp [TickWaits, tickSource, hpl, htl, hin]

/-- The tick waits on while another agent has the turn. -/
theorem step_keeps_tickWaits {t : State} (h : TickWaits s) (hturn : s.turn ≠ .cons) (hstep : step s = .next t) :
    TickWaits t := by
  cases hs : s.turn with
  | cons => exact absurd hs hturn
  | cmd =>
    rw [step_task_not_ready (.inl hs) h.not_ready] at hstep
    cases hstep
    exact h
  | prod =>
    rw [step_task_not_ready (.inr hs) h.not_ready] at hstep
    cases hstep
    exact h
  | host a =>
    rw [step_of_turn_host hs] at hstep
    cases hstep
    exact hostStep_tickWaits a h
  | tickSrc =>
    rw [step_of_turn_tickSrc hs] at hstep
    cases hstep
    exact tickSource_tickWaits h

end

section
variable {σ : Nat → State} {n : Nat}

theorem tickWaits_until_cons_turn (hrun : IsRun σ) (h : TickWaits (σ n)) {m : Nat} (hm : n ≤ m)
    (hturn : ∀ k, n ≤ k → k < m → (σ k).turn ≠ .cons) : TickWaits (σ m) := by
  induction m, hm using Nat.le_induction with
  | base => exact h
  | succ m hm ih =>
    exact step_keeps_tickWaits (ih fun k hk hkm => hturn k hk (by omega)) (hturn m hm (by omega)) (hrun m)

/-- Weak fairness gives the consumer a turn, since it is enabled as long as it has had none. -/
theorem exists_cons_turn (hfair : FairRun σ) (h : TickWaits (σ n)) : ∃ k, n ≤ k ∧ (σ k).turn = .cons := by
  by_contra hnone
  push Not at hnone
  obtain ⟨k, hk, hturn⟩ := hfair.cons n fun k hk =>
    enabled_cons_of_tickWaits (tickWaits_until_cons_turn hfair.run h hk fun j hj _ => hnone j hj)
  exact hnone k hk hturn

/-- At the consumer's first turn the handler enters; up to then the tick waits. -/
theorem tick_taken (hfair : FairRun σ) (h : TickWaits (σ n)) :
    ∃ k, n ≤ k ∧ (σ k).turn = .cons ∧ (σ (k + 1)).inHandler = true ∧ ∀ m, n ≤ m → m ≤ k → TickWaits (σ m) := by
  have hex := exists_cons_turn hfair h
  obtain ⟨hk, hturn⟩ := Nat.find_spec hex
  have hwaits : ∀ m, n ≤ m → m ≤ Nat.find hex → TickWaits (σ m) := fun m hm hmk =>
    tickWaits_until_cons_turn hfair.run h hm fun j hj hjm hj' => Nat.find_min hex (by omega) ⟨hj, hj'⟩
  exact ⟨_, hk, hturn, step_cons_of_tickWaits (hwaits _ hk le_rfl) hturn (hfair.run _), hwaits⟩

end

/-- Settles O56: `taskReady` fails in both cases, and every meaning but TICK's asks for it; the first turn of the consumer, which
fairness gives, takes the tick. -/
theorem tasksWaitForTheHandler : Obligations.TasksWaitForTheHandler := by
  refine ⟨fun s hs => ?_, fun σ n hfair hpl htl hin => ?_⟩
  · have h := taskReady_eq_false.2 hs
    exact ⟨fun i hi => exec_not_ready hi h, enabled_cmd_not_ready h, enabled_prod_not_ready h,
      fun hturn => step_task_not_ready hturn h⟩
  · obtain ⟨k, hk, hturn, henters, hwaits⟩ := tick_taken hfair ⟨hpl, htl, hin⟩
    refine ⟨k, hk, hturn, henters, fun m hm hmk => ?_⟩
    have h := (hwaits m hm hmk).not_ready
    exact ⟨enabled_cmd_not_ready h, enabled_prod_not_ready h⟩

end Sys2Proof.Machine
end

section
/-! What a step adds to the history (R21, R23): at most one bus event, and a hazard event exactly where its flag rises or is
set again (R535, R551, R552, R554). -/

namespace Sys2Proof.Machine

open Sys2Proof.Safety

/-- The sticky flag of a hazard (R119). -/
def hazardFlag : HazardKind → State → Bool
  | .underrun, s => s.underrun
  | .signalOverrun, s => s.sigOverrun
  | .tickLost, s => s.tickLost

/-- From `s` to `t` the history grows by at most `n` bus events, a hazard flag rises only with its event, and with its event
it is set. -/
def Grows (n : Nat) (s t : State) : Prop :=
  ∃ es : List Event, t.history = s.history ++ es ∧ (es.filter busEvent).length ≤ n ∧
    ∀ k, (hazardFlag k s = false → hazardFlag k t = true → .hazard k ∈ es) ∧ (.hazard k ∈ es → hazardFlag k t = true)

/-- From `s` to `t` the history grows by at most `n` bus events and no hazard, and no hazard flag rises. -/
def Quiet (n : Nat) (s t : State) : Prop :=
  ∃ es : List Event, t.history = s.history ++ es ∧ (es.filter busEvent).length ≤ n ∧
    ∀ k, .hazard k ∉ es ∧ (hazardFlag k t = true → hazardFlag k s = true)

section
variable {m n : Nat} {s t u : State}

theorem Grows.mono (h : Grows m s t) (hmn : m ≤ n) : Grows n s t := by
  obtain ⟨es, hes, hbus, hk⟩ := h
  exact ⟨es, hes, hbus.trans hmn, hk⟩

theorem Quiet.mono (h : Quiet m s t) (hmn : m ≤ n) : Quiet n s t := by
  obtain ⟨es, hes, hbus, hk⟩ := h
  exact ⟨es, hes, hbus.trans hmn, hk⟩

theorem Quiet.trans_grows (h₁ : Quiet m s t) (h₂ : Grows n t u) : Grows (m + n) s u := by
  obtain ⟨es₁, hes₁, hbus₁, hk₁⟩ := h₁
  obtain ⟨es₂, hes₂, hbus₂, hk₂⟩ := h₂
  refine ⟨es₁ ++ es₂, by simp [hes₁, hes₂], by simp only [List.filter_append, List.length_append]; omega, fun k => ?_⟩
  obtain ⟨hnone, hflag⟩ := hk₁ k
  obtain ⟨hrises, hset⟩ := hk₂ k
  refine ⟨fun hs hu => List.mem_append_right _ (hrises ?_ hu), fun hmem => hset ?_⟩
  · exact Bool.eq_false_iff.2 fun ht => by simp [hflag ht] at hs
  · exact (List.mem_append.1 hmem).resolve_left hnone

theorem Quiet.grows (h : Quiet n s t) : Grows n s t := by
  obtain ⟨es, hes, hbus, hk⟩ := h
  refine ⟨es, hes, hbus, fun k => ⟨fun hs ht => ?_, fun hmem => absurd hmem (hk k).1⟩⟩
  simp [(hk k).2 ht] at hs

theorem Quiet.trans (h₁ : Quiet m s t) (h₂ : Quiet n t u) : Quiet (m + n) s u := by
  obtain ⟨es₁, hes₁, hbus₁, hk₁⟩ := h₁
  obtain ⟨es₂, hes₂, hbus₂, hk₂⟩ := h₂
  refine ⟨es₁ ++ es₂, by simp [hes₁, hes₂], by simp only [List.filter_append, List.length_append]; omega, fun k => ?_⟩
  exact ⟨by simp [(hk₁ k).1, (hk₂ k).1], fun hu => (hk₁ k).2 ((hk₂ k).2 hu)⟩

/-- Afterwards nothing more is recorded on a bus. -/
theorem Quiet.after (h₁ : Quiet n s t) (h₂ : Quiet 0 t u) : Quiet n s u := h₁.trans h₂

/-- Beforehand nothing was recorded on a bus. -/
theorem Quiet.before (h₁ : Quiet 0 s t) (h₂ : Quiet n t u) : Quiet n s u := (h₁.trans h₂).mono (by omega)

/-- An operation that writes neither the history nor a hazard flag is quiet. -/
theorem quiet_of_unchanged (hes : t.history = s.history := by rfl) (hu : t.underrun = s.underrun := by rfl)
    (hso : t.sigOverrun = s.sigOverrun := by rfl) (htl : t.tickLost = s.tickLost := by rfl) : Quiet 0 s t :=
  ⟨[], by simp [hes], le_rfl, fun k => ⟨List.not_mem_nil, by cases k <;> simp [hazardFlag, hu, hso, htl]⟩⟩

theorem Grows.after_unchanged (h : Grows n s t) (hes : u.history = t.history := by rfl)
    (hu : u.underrun = t.underrun := by rfl) (hso : u.sigOverrun = t.sigOverrun := by rfl)
    (htl : u.tickLost = t.tickLost := by rfl) : Grows n s u := by
  obtain ⟨es, ht, hbus, hk⟩ := h
  have hflag : ∀ k, hazardFlag k u = hazardFlag k t := fun k => by cases k <;> simp [hazardFlag, hu, hso, htl]
  exact ⟨es, hes.trans ht, hbus, fun k => by simpa only [hflag] using hk k⟩

/-- An operation that records one event, which is no hazard, and writes no hazard flag is quiet. -/
theorem quiet_of_event {e : Event} (he : ∀ k, e ≠ .hazard k) (hbus : ([e].filter busEvent).length ≤ n)
    (hes : t.history = s.history ++ [e] := by rfl) (hu : t.underrun = s.underrun := by rfl)
    (hso : t.sigOverrun = s.sigOverrun := by rfl) (htl : t.tickLost = s.tickLost := by rfl) : Quiet n s t :=
  ⟨[e], hes, hbus, fun k =>
    ⟨by simpa using (he k).symm, by cases k <;> simp [hazardFlag, hu, hso, htl]⟩⟩

end

/-! ### The shared operations -/

section
variable (s : State)

theorem finish_quiet (code : ResultCode) : Quiet 0 s (finish code s) := quiet_of_unchanged

theorem setPos_quiet (p : CmdPos) : Quiet 0 s (setPos p s) := quiet_of_unchanged

theorem clearFlags_quiet : Quiet 0 s (clearFlags s) :=
  ⟨[], by simp, le_rfl, fun k => ⟨List.not_mem_nil, by cases k <;> simp [hazardFlag]⟩⟩

theorem selectCard_quiet (v : Bool) : Quiet 0 s (selectCard v s) :=
  quiet_of_event (e := .cs v) (by simp) le_rfl

theorem xfer_quiet (b : Byte) : Quiet 1 s (xfer b s) :=
  quiet_of_event (e := .spi s.cs b (cardAnswer s)) (by simp) le_rfl

theorem recv_quiet : Quiet 1 s (recv s) := xfer_quiet s filler

theorem completePrim_quiet (prim : I2cPrim) (ack : Bool) : Quiet 1 s (completePrim prim ack (takeI2cAnswer s)) := by
  rw [completePrim_eq]
  exact quiet_of_event (e := primEvent prim ack) (by cases prim <;> simp [primEvent]) (List.length_filter_le _ _)

theorem afterDacPrim_quiet (k : Fin 6) : Quiet 0 s (afterDacPrim k s) := by
  unfold afterDacPrim
  split
  exacts [setPos_quiet s _, finish_quiet s _]

/-! ### The SD procedures -/

theorem failInit_quiet (code : ResultCode) : Quiet 0 s (failInit code s) :=
  (selectCard_quiet s false).after quiet_of_unchanged

theorem finishInit_quiet (o : Byte) : Quiet 0 s (finishInit o s) :=
  (selectCard_quiet s false).after quiet_of_unchanged

theorem startInit_quiet (c : InitCommand) : Quiet 0 s (startInit c s) := setPos_quiet s _

theorem wakeStep_quiet (sent : Fin 10) : Quiet 1 s (wakeStep sent s) := by
  unfold wakeStep
  split
  · exact (xfer_quiet s filler).after (setPos_quiet _ _)
  · exact (xfer_quiet s filler).after (startInit_quiet _ _)

theorem initResponse_quiet (c : InitCommand) (r : Byte) : Quiet 0 s (initResponse c r s) := by
  cases c with
  | goIdle | ifCond | readOcr =>
    simp only [initResponse]
    split
    exacts [setPos_quiet s _, failInit_quiet s _]
  | appCmd used => exact startInit_quiet s _
  | opCond used =>
    simp only [initResponse]
    split_ifs
    exacts [startInit_quiet s _, startInit_quiet s _, failInit_quiet s _]

theorem selectBefore_quiet (c : InitCommand) (k : Fin 6) : Quiet 0 s (selectBefore c k s) := by
  unfold selectBefore
  split
  exacts [selectCard_quiet s true, quiet_of_unchanged]

theorem initStep_quiet (p : InitPos) : Quiet 1 s (initStep p s) := by
  cases p with
  | command c p =>
    cases p with
    | frame k => exact ((selectBefore_quiet s c k).before (xfer_quiet _ _)).after (setPos_quiet _ _)
    | poll polled =>
      simp only [initStep]
      split
      exacts [(recv_quiet s).after (initResponse_quiet _ _ _), (recv_quiet s).after (setPos_quiet _ _)]
  | ifCondReply k =>
    simp only [initStep]
    split_ifs
    · exact (recv_quiet s).after (setPos_quiet _ _)
    · exact (recv_quiet s).after (startInit_quiet _ _)
    · exact (recv_quiet s).after (failInit_quiet _ _)
  | ocrReply k o =>
    simp only [initStep]
    split
    · exact (recv_quiet s).after (setPos_quiet _ _)
    · exact (recv_quiet s).after (finishInit_quiet _ _)

theorem storeInRange_quiet (d : Dest) (offset length k : Nat) (b : Byte) :
    Quiet 0 s (storeInRange d offset length k b s) := by
  rw [storeInRange_eq]
  exact quiet_of_unchanged

theorem readTransfer_quiet (d : Dest) (offset length : Nat) (addr : Word) (p : ReadPos) :
    Quiet 1 s (readTransfer d offset length addr p s) := by
  cases p with
  | command p =>
    cases p with
    | frame k =>
      simp only [readTransfer]
      split
      exacts [(selectCard_quiet s true).before (xfer_quiet _ _), xfer_quiet s _]
    | poll polled => exact recv_quiet s
  | token polled | check k => exact recv_quiet s
  | data k => exact (recv_quiet s).after (storeInRange_quiet _ _ _ _ _ _)

theorem readStep_quiet (d : Dest) (offset length : Nat) (r : ReadSeq) :
    Quiet 1 s (readStep d offset length r s).2 := by
  rw [readStep_eq]
  dsimp only
  split
  · exact (readTransfer_quiet s _ _ _ _ _).after (selectCard_quiet _ _)
  · exact readTransfer_quiet s _ _ _ _ _

theorem commandReadStep_quiet (c : Command) (r : ReadSeq) : Quiet 1 s (commandReadStep c r s) := by
  have hread := readStep_quiet s .scratch c.offset c.length r
  unfold commandReadStep
  generalize readStep .scratch c.offset c.length r s = q at hread ⊢
  obtain ⟨p | code, t⟩ := q
  exacts [hread.after (setPos_quiet _ _), hread.after (finish_quiet _ _)]

theorem finishRefill_quiet (h : Half) (code : ResultCode) : Quiet 0 s (finishRefill h code s) := by
  unfold finishRefill noteRefillResult
  cases h <;> split <;> exact quiet_of_unchanged

theorem producerReadStep_quiet (h : Half) (r : ReadSeq) : Quiet 1 s (producerReadStep h r s) := by
  have hread := readStep_quiet s .ring (halfOffset h) halfSize r
  unfold producerReadStep
  generalize readStep .ring (halfOffset h) halfSize r s = q at hread ⊢
  obtain ⟨p | code, t⟩ := q
  exacts [hread.after quiet_of_unchanged, hread.after (finishRefill_quiet _ _ _)]

theorem refillWake_quiet : Quiet 1 s (refillWake s) := by
  have hwoken : Quiet 0 s { s with sem := s.sem - 1, pending := none } := quiet_of_unchanged
  unfold refillWake
  cases s.pending with
  | none => exact hwoken.mono (by omega)
  | some h =>
    dsimp only
    split
    · exact hwoken.before (producerReadStep_quiet _ _ _)
    · exact (hwoken.after quiet_of_unchanged).mono (by omega)

/-! ### The three places where a hazard is noted -/

theorem signal_grows (h : Half) : Grows 0 s (signal h s) := by
  rw [signal_eq]
  refine ⟨_, rfl, ?_, fun k => ?_⟩
  · cases s.pending <;> simp [busEvent]
  · cases k <;> cases s.pending <;> simp_all [hazardFlag]

theorem enterHandler_grows : Grows 0 s (enterHandler s) := by
  rw [enterHandler_eq]
  refine ⟨_, rfl, ?_, fun k => ?_⟩
  · cases underrunNow s <;> simp [busEvent]
  · cases k <;> cases underrunNow s <;> simp_all [hazardFlag]

theorem tickSource_grows : Grows 0 s (tickSource s) := by
  unfold tickSource
  split_ifs
  · refine ⟨[.hazard .tickLost], rfl, le_rfl, fun k => ?_⟩
    cases k <;> simp_all [hazardFlag]
  all_goals exact (quiet_of_unchanged).grows

theorem advancePlayIndex_grows : Grows 0 s (advancePlayIndex s) := by
  unfold advancePlayIndex
  dsimp only
  split_ifs
  iterate 2 exact (quiet_of_unchanged (s := s)).trans_grows (signal_grows _ _)
  exact (quiet_of_unchanged).grows

theorem exitHandler_grows : Grows 0 s (exitHandler s) := (advancePlayIndex_grows s).after_unchanged

theorem handlerAdvance_grows : Grows 0 s (handlerAdvance s) := by
  unfold handlerAdvance
  dsimp only
  split
  · exact (quiet_of_unchanged (s := s)).trans_grows (exitHandler_grows _)
  · exact (quiet_of_unchanged).grows

end

/-! ### The step -/

section
variable {s t : State}

theorem CommandEffect.quiet {c : Command} (h : CommandEffect c s t) : Quiet 1 s t := by
  cases h with
  | ends code => exact (finish_quiet s code).mono (by omega)
  | clears => exact ((clearFlags_quiet s).after (finish_quiet _ _)).mono (by omega)
  | sends b => exact (xfer_quiet s b).after (finish_quiet _ _)
  | receives b => exact (xfer_quiet s b).after quiet_of_unchanged
  | setsDivisor d => exact (quiet_of_unchanged).mono (by omega)
  | selects v => exact ((selectCard_quiet s v).after (finish_quiet _ _)).mono (by omega)
  | startsInit =>
    have hdiv : Quiet 0 s { s with div := nearestOf s.cfg.supportedDivisors s.cfg.slowDivisor } :=
      quiet_of_unchanged
    exact (hdiv.after (selectCard_quiet _ _)).before (wakeStep_quiet _ _)
  | startsRead addr => exact commandReadStep_quiet s c _
  | waitsForPrim | startsFrame => exact (setPos_quiet s _).mono (by omega)
  | startsPlayback | stopsPlayback => exact (quiet_of_unchanged).mono (by omega)
  | wakes k => exact wakeStep_quiet s k
  | inits p => exact initStep_quiet s p
  | reads r => exact commandReadStep_quiet s c r
  | completesPrim prim ack => exact (completePrim_quiet s prim ack).after (finish_quiet _ _)
  | completesFramePrim v k prim ack => exact (completePrim_quiet s prim ack).after (afterDacPrim_quiet _ k)

theorem ProducerEffect.quiet (h : ProducerEffect s t) : Quiet 1 s t := by
  cases h with
  | wakes => exact refillWake_quiet s
  | fills h r => exact producerReadStep_quiet s h r

theorem ConsumerEffect.grows (h : ConsumerEffect s t) : Grows 1 s t := by
  cases h with
  | enters => exact (enterHandler_grows s).mono (by omega)
  | completes prim ack => exact (completePrim_quiet s prim ack).trans_grows (handlerAdvance_grows _)

theorem hostStep_quiet (a : HostAccess) : Quiet 0 s (hostStep a s) := by
  rw [hostStep_frame]
  exact quiet_of_unchanged

theorem StepEffect.grows (h : StepEffect s t) : Grows 1 s t := by
  cases h with
  | passes => exact (quiet_of_unchanged).grows.mono (by omega)
  | host a => exact (hostStep_quiet a).grows.mono (by omega)
  | tickSource => exact (tickSource_grows s).mono (by omega)
  | command c t _ _ _ he => exact he.quiet.grows
  | producer t _ _ he => exact he.quiet.grows
  | consumer t _ he => exact he.grows

theorem step_grows (h : step s = .next t) : Grows 1 s t := by
  obtain ⟨u, rfl, he⟩ := step_effect h
  exact he.grows.after_unchanged

end

/-! ### Runs -/

section
variable {σ : Nat → State} {k : HazardKind}

theorem hazardFlag_stays_clear (hrun : IsRun σ) (h : hazardFlag k (σ 0) = false)
    (hnone : ∀ n, .hazard k ∉ (σ n).history) (n : Nat) : hazardFlag k (σ n) = false := by
  induction n with
  | zero => exact h
  | succ n ih =>
    obtain ⟨es, hes, -, hk⟩ := step_grows (hrun n)
    refine Bool.eq_false_iff.2 fun hset => hnone (n + 1) ?_
    rw [hes]
    exact List.mem_append_right _ ((hk k).1 ih hset)

theorem hazard_stays_unrecorded (hrun : IsRun σ) (h : .hazard k ∉ (σ 0).history)
    (hclear : ∀ n, hazardFlag k (σ n) = false) (n : Nat) : .hazard k ∉ (σ n).history := by
  induction n with
  | zero => exact h
  | succ n ih =>
    obtain ⟨es, hes, -, hk⟩ := step_grows (hrun n)
    rw [hes, List.mem_append]
    rintro (hmem | hmem)
    · exact ih hmem
    · simpa [hclear (n + 1)] using (hk k).2 hmem

end

/-- Settles O16: `step_grows`, and its consequence for a run, by induction on the run. -/
theorem historyGrowsByOneBusActionAStep : Obligations.HistoryGrowsByOneBusActionAStep := by
  refine ⟨fun s t h => ?_, fun σ hrun ⟨hu, hso⟩ hfu hfso => ⟨fun h n => ?_, fun h n => ?_⟩⟩
  · obtain ⟨es, hes, hbus, hk⟩ := step_grows h
    exact ⟨es, hes, hbus, (hk .underrun).1, (hk .underrun).2, (hk .signalOverrun).1, (hk .signalOverrun).2,
      (hk .tickLost).1, (hk .tickLost).2⟩
  · exact ⟨hazardFlag_stays_clear (k := .underrun) hrun hfu (fun n => (h n).1) n,
      hazardFlag_stays_clear (k := .signalOverrun) hrun hfso (fun n => (h n).2) n⟩
  · exact ⟨hazard_stays_unrecorded (k := .underrun) hrun hu (fun n => (h n).1) n,
      hazard_stays_unrecorded (k := .signalOverrun) hrun hso (fun n => (h n).2) n⟩

end Sys2Proof.Machine
end

section
/-! What each agent's step writes (R125), said once by agent: the elements it may write, the memory bytes it
stores (R120, R121), what becomes of `CARD` (R109) and of the sticky flags (R119). -/

namespace Sys2Proof.Machine

open Sys2Proof.Safety

/-! ### Stores to the two memories -/

/-- The memory `m'` is `m`, or `m` with one byte written below `n`. -/
def Stores (n : Nat) (m m' : Memory) : Prop := m' = m ∨ ∃ k v, k < n ∧ m' = writeByte m k v

section
variable {n n' : Nat} {m m' : Memory}

theorem Stores.mono (h : Stores n m m') (hn : n ≤ n') : Stores n' m m' := by
  obtain rfl | ⟨k, v, hk, rfl⟩ := h
  exacts [.inl rfl, .inr ⟨k, v, hk.trans_le hn, rfl⟩]

theorem Stores.memoryWf (h : Stores n m m') (hm : memoryWf m = true) : memoryWf m' = true := by
  obtain rfl | ⟨k, v, -, rfl⟩ := h
  exacts [hm, memoryWf_writeByte k v hm]

theorem Stores.memoryBelow (h : Stores n m m') (hm : memoryBelow n m = true) : memoryBelow n m' = true := by
  obtain rfl | ⟨k, v, hk, rfl⟩ := h
  exacts [hm, memoryBelow_writeByte hm hk]

end

/-- A read stores at most one byte, below the end of its range and below 512. -/
theorem readMemory_stores (d d' : Dest) (offset length : Nat) (p : ReadPos) (b : Byte) (m : Memory) :
    Stores (min (offset + length) blockSize) m (readMemory d d' offset length p b m) := by
  cases p with
  | command _ | token _ | check _ => exact .inl rfl
  | data k =>
    simp only [readMemory]
    split
    · rename_i hk
      exact .inr ⟨k.val, b, lt_min hk.2.2 k.isLt, rfl⟩
    · exact .inl rfl

theorem readMemory_other {d d' : Dest} (hd : d ≠ d') (offset length : Nat) (p : ReadPos) (b : Byte) (m : Memory) :
    readMemory d d' offset length p b m = m := by
  cases p <;> simp [readMemory, hd]

theorem readMemory_scratch_stores (offset length : Nat) (p : ReadPos) (b : Byte) (m : Memory) :
    Stores blockSize m (readMemory .scratch .scratch offset length p b m) :=
  (readMemory_stores _ _ _ _ _ _ _).mono (min_le_right _ _)

/-- A fill stores inside its half (R547). -/
theorem readMemory_ring_stores (h : Half) (p : ReadPos) (b : Byte) (m : Memory) :
    Stores ringSize m (readMemory .ring .ring (halfOffset h) halfSize p b m) :=
  (readMemory_stores _ _ _ _ _ _ _).mono (by cases h <;> decide)

/-! ### The command engine -/

/-- Every sticky flag of `s` is set in `t`. -/
def FlagsKept (s t : State) : Prop :=
  (s.underrun = true → t.underrun = true) ∧ (s.sigOverrun = true → t.sigOverrun = true) ∧
    (s.tickLost = true → t.tickLost = true) ∧ (s.cmdLost = true → t.cmdLost = true) ∧
    (s.refillErr = true → t.refillErr = true)

theorem FlagsKept.trans {s t u : State} (h₁ : FlagsKept s t) (h₂ : FlagsKept t u) : FlagsKept s u := by
  obtain ⟨hu, hso, htl, hcl, hre⟩ := h₁
  obtain ⟨hu', hso', htl', hcl', hre'⟩ := h₂
  exact ⟨hu' ∘ hu, hso' ∘ hso, htl' ∘ htl, hcl' ∘ hcl, hre' ∘ hre⟩

/-- What a step of the command engine on the command `c` may write. -/
structure CommandFrame (c : Command) (s t : State) : Prop where
  scratch : Stores blockSize s.scratch t.scratch := by exact .inl rfl
  card : t.card = s.card ∨ (∃ p, c.pos = .init p) ∧ t.card ≠ .uninitialized := by exact .inl rfl
  flags : (c.pos = .decode ∧ c.instr = .ok .clrFlags) ∨ FlagsKept s t := by exact .inr ⟨id, id, id, id, id⟩
  frame : t = { s with
    busy := t.busy, cur := t.cur, result := t.result, rx := t.rx, cs := t.cs, div := t.div, card := t.card
    i2cOpen := t.i2cOpen, playing := t.playing, tickLatch := t.tickLatch, underrun := t.underrun
    sigOverrun := t.sigOverrun, tickLost := t.tickLost, cmdLost := t.cmdLost, refillErr := t.refillErr
    rerr := t.rerr, scratch := t.scratch, history := t.history, env := t.env } := by rfl

section
variable {c : Command} (s : State)

theorem wakeStep_frame (k : Fin 10) : CommandFrame c s (wakeStep k s) := by
  unfold wakeStep
  split <;> exact {}

theorem failInit_frame {p : InitPos} (hp : c.pos = .init p) (code : ResultCode) :
    CommandFrame c s (failInit code s) :=
  { card := .inr ⟨⟨p, hp⟩, nofun⟩ }

theorem classify_ne_uninitialized (o : Byte) : classify o ≠ .uninitialized := by
  unfold classify
  split <;> nofun

theorem finishInit_frame {p : InitPos} (hp : c.pos = .init p) (o : Byte) : CommandFrame c s (finishInit o s) :=
  { card := .inr ⟨⟨p, hp⟩, classify_ne_uninitialized o⟩ }

/-- Receiving a byte first adds nothing to what the command engine may write. -/
theorem CommandFrame.of_recv {t : State} (h : CommandFrame c (recv s) t) : CommandFrame c s t := { h with }

theorem initResponse_frame {p : InitPos} (hp : c.pos = .init p) (i : InitCommand) (r : Byte) :
    CommandFrame c s (initResponse i r s) := by
  cases i with
  | goIdle | ifCond | readOcr =>
    simp only [initResponse]
    split
    exacts [{}, failInit_frame s hp _]
  | appCmd used => exact {}
  | opCond used =>
    simp only [initResponse]
    split_ifs
    exacts [{}, {}, failInit_frame s hp _]

theorem initStep_frame {p : InitPos} (hp : c.pos = .init p) : CommandFrame c s (initStep p s) := by
  cases p with
  | command i p =>
    cases p with
    | frame k =>
      simp only [initStep, selectBefore]
      split <;> exact {}
    | poll polled =>
      simp only [initStep]
      split
      exacts [.of_recv s (initResponse_frame _ hp _ _), {}]
  | ifCondReply k =>
    simp only [initStep]
    split_ifs
    exacts [{}, {}, .of_recv s (failInit_frame _ hp _)]
  | ocrReply k o =>
    simp only [initStep]
    split
    exacts [{}, .of_recv s (finishInit_frame _ hp _)]

theorem commandReadStep_frame (r : ReadSeq) : CommandFrame c s (commandReadStep c r s) := by
  have hstore := readMemory_scratch_stores c.offset c.length r.pos (cardAnswer s) s.scratch
  have hring := readMemory_other (d := .scratch) (d' := .ring) nofun c.offset c.length r.pos (cardAnswer s) s.ring
  simp only [commandReadStep, readStep_eq, readTransfer_eq, hring]
  cases readNext s.cfg r.pos (cardAnswer s) <;> exact { scratch := hstore }

theorem afterDacPrim_frame (k : Fin 6) (prim : I2cPrim) (ack : Bool) :
    CommandFrame c s (afterDacPrim k (completePrim prim ack (takeI2cAnswer s))) := by
  rw [completePrim_eq]
  unfold afterDacPrim
  split <;> exact {}

variable {s}

theorem CommandEffect.frame {t : State} (h : CommandEffect c s t) : CommandFrame c s t := by
  cases h with
  | clears hp hi => exact { flags := .inl ⟨hp, hi⟩ }
  | ends | sends | receives | setsDivisor | selects | waitsForPrim | startsFrame | startsPlayback | stopsPlayback =>
    exact {}
  | startsInit =>
    have hwake := wakeStep_frame (c := c)
      (selectCard false { s with div := nearestOf s.cfg.supportedDivisors s.cfg.slowDivisor }) 0
    exact { hwake with }
  | startsRead addr => exact commandReadStep_frame s _
  | wakes k => exact wakeStep_frame s k
  | inits p hp => exact initStep_frame s hp
  | reads r => exact commandReadStep_frame s r
  | completesPrim prim ack =>
    rw [completePrim_eq]
    exact {}
  | completesFramePrim v k prim ack => exact afterDacPrim_frame s k prim ack

end

/-! ### The producer -/

/-- What a step of the producer may write. -/
structure ProducerFrame (s t : State) : Prop where
  ring : Stores ringSize s.ring t.ring := by exact .inl rfl
  flags : FlagsKept s t := by exact ⟨id, id, id, id, id⟩
  frame : t = { s with
    cs := t.cs, pending := t.pending, sem := t.sem, prod := t.prod, cursor := t.cursor, refillErr := t.refillErr
    rerr := t.rerr, ring := t.ring, history := t.history, env := t.env } := by rfl

/-- All that the end of a refill writes (R549, R550). -/
theorem finishRefill_eq (h : Half) (code : ResultCode) (s : State) :
    finishRefill h code s =
      { s with
        prod := .waiting
        cursor := if h = .upper then nextCursor s.cfg s.cursor else s.cursor
        refillErr := s.refillErr || decide (code ≠ .ok)
        rerr := if code = .ok then s.rerr else code } := by
  cases h <;> by_cases hok : code = .ok <;>
    simp [finishRefill, advanceCursor, noteRefillResult, refillError, hok]

section
variable (s : State)

theorem producerReadStep_frame (h : Half) (r : ReadSeq) : ProducerFrame s (producerReadStep h r s) := by
  have hstore := readMemory_ring_stores h r.pos (cardAnswer s) s.ring
  have hscratch := readMemory_other (d := .ring) (d' := .scratch) nofun (halfOffset h) halfSize r.pos (cardAnswer s)
    s.scratch
  simp only [producerReadStep, readStep_eq, readTransfer_eq, hscratch]
  cases readNext s.cfg r.pos (cardAnswer s) with
  | go p => exact { ring := hstore }
  | done code =>
    dsimp only
    rw [finishRefill_eq]
    exact { ring := hstore, flags := ⟨id, id, id, id, fun hre => Bool.or_eq_true_iff.2 (.inl hre)⟩ }

theorem refillWake_frame : ProducerFrame s (refillWake s) := by
  unfold refillWake
  cases s.pending with
  | none => exact {}
  | some h =>
    dsimp only
    split
    · have hread := producerReadStep_frame { s with sem := s.sem - 1, pending := none } h
        { addr := wireAddr s.card (refillBlock s.cfg s.cursor), pos := .command (.frame 0) }
      exact { hread with }
    · exact { flags := ⟨id, id, id, id, fun _ => rfl⟩ }

variable {s}

theorem ProducerEffect.frame {t : State} (h : ProducerEffect s t) : ProducerFrame s t := by
  cases h with
  | wakes => exact refillWake_frame s
  | fills h r => exact producerReadStep_frame s h r

end

/-! ### The consumer -/

/-- What a step of the consumer may write. -/
structure ConsumerFrame (s t : State) : Prop where
  flags : FlagsKept s t := by exact ⟨id, id, id, id, id⟩
  frame : t = { s with
    i2cOpen := t.i2cOpen, tickLatch := t.tickLatch, inHandler := t.inHandler, hsample := t.hsample, hpos := t.hpos
    playIndex := t.playIndex, pending := t.pending, sem := t.sem, underrun := t.underrun, sigOverrun := t.sigOverrun
    history := t.history, env := t.env } := by rfl

theorem ConsumerFrame.trans {s t u : State} (h₁ : ConsumerFrame s t) (h₂ : ConsumerFrame t u) : ConsumerFrame s u where
  flags := h₁.flags.trans h₂.flags
  frame := h₂.frame.trans (by rw [h₁.frame])

section
variable (s : State)

theorem enterHandler_frame : ConsumerFrame s (enterHandler s) := by
  rw [enterHandler_eq]
  exact { flags := ⟨fun hu => Bool.or_eq_true_iff.2 (.inl hu), id, id, id, id⟩ }

theorem signal_frame (h : Half) : ConsumerFrame s (signal h s) := by
  rw [signal_eq]
  exact { flags := ⟨id, fun hso => Bool.or_eq_true_iff.2 (.inl hso), id, id, id⟩ }

theorem advancePlayIndex_frame : ConsumerFrame s (advancePlayIndex s) := by
  have hindex : ∀ i, ConsumerFrame s { s with playIndex := i } := fun _ => {}
  unfold advancePlayIndex
  dsimp only
  split_ifs
  exacts [(hindex _).trans (signal_frame _ _), (hindex _).trans (signal_frame _ _), hindex _]

theorem handlerAdvance_frame : ConsumerFrame s (handlerAdvance s) := by
  have hpos : ConsumerFrame s { s with hpos := s.hpos + 1 } := {}
  unfold handlerAdvance exitHandler
  dsimp only
  split
  · exact (hpos.trans (advancePlayIndex_frame _)).trans {}
  · exact hpos

variable {s}

theorem ConsumerEffect.frame {t : State} (h : ConsumerEffect s t) : ConsumerFrame s t := by
  cases h with
  | enters => exact enterHandler_frame s
  | completes prim ack =>
    have hprim : ConsumerFrame s (completePrim prim ack (takeI2cAnswer s)) := by
      rw [completePrim_eq]
      exact {}
    exact hprim.trans (handlerAdvance_frame _)

end

/-! ### The tick source and the host -/

theorem tickSource_flags (s : State) : FlagsKept s (tickSource s) := by
  unfold tickSource
  split_ifs
  exacts [⟨id, id, fun _ => rfl, id, id⟩, ⟨id, id, id, id, id⟩, ⟨id, id, id, id, id⟩]

theorem tickSource_frame (s : State) :
    tickSource s = { s with
      tickLatch := (tickSource s).tickLatch, tickLost := (tickSource s).tickLost
      history := (tickSource s).history } := by
  unfold tickSource
  split_ifs <;> rfl

theorem writeRegister_cmdLost (off : Nat) (w : Word) (s : State) (h : s.cmdLost = true) :
    (writeRegister off w s).cmdLost = true := by
  unfold writeRegister
  split_ifs
  · unfold issue
    split
    exacts [rfl, h]
  all_goals exact h

theorem hostStep_flags (a : HostAccess) (s : State) : FlagsKept s (hostStep a s) := by
  have hcmd : s.cmdLost = true → (hostStep a s).cmdLost = true := fun h => by
    unfold hostStep
    split_ifs
    · exact h
    · cases a with
      | read off size => exact h
      | write off size w => exact writeRegister_cmdLost off w s h
    · exact h
  rw [hostStep_frame]
  exact ⟨id, id, id, hcmd, id⟩

/-! ### The step -/

section
variable {s t : State}

theorem StepEffect.stores (h : StepEffect s t) :
    Stores ringSize s.ring t.ring ∧ Stores blockSize s.scratch t.scratch := by
  cases h with
  | passes => exact ⟨.inl rfl, .inl rfl⟩
  | host a =>
    rw [hostStep_frame]
    exact ⟨.inl rfl, .inl rfl⟩
  | tickSource =>
    rw [tickSource_frame]
    exact ⟨.inl rfl, .inl rfl⟩
  | command c _ _ _ _ he => exact ⟨.inl (congrArg State.ring he.frame.frame :), he.frame.scratch⟩
  | producer _ _ _ he => exact ⟨he.frame.ring, .inl (congrArg State.scratch he.frame.frame :)⟩
  | consumer _ _ he =>
    rw [he.frame.frame]
    exact ⟨.inl rfl, .inl rfl⟩

/-- The sticky flags stay set but in the decode step of CLRFLAGS. -/
theorem StepEffect.flags (h : StepEffect s t) :
    (∃ c, s.turn = .cmd ∧ s.cur = some c ∧ c.pos = .decode ∧ c.instr = .ok .clrFlags) ∨ FlagsKept s t := by
  cases h with
  | passes => exact .inr ⟨id, id, id, id, id⟩
  | host a => exact .inr (hostStep_flags a s)
  | tickSource => exact .inr (tickSource_flags s)
  | command c _ hturn hc _ he => exact he.frame.flags.imp_left fun hclr => ⟨c, hturn, hc, hclr⟩
  | producer _ _ _ he => exact .inr he.frame.flags
  | consumer _ _ he => exact .inr he.frame.flags

theorem respectsRealTime_of_step (h : step s = .next t) (ht : RespectsRealTime t) : RespectsRealTime s := by
  obtain ⟨es, hes, -⟩ := step_grows h
  obtain ⟨hu, hso⟩ := ht
  rw [hes] at hu hso
  exact ⟨fun hmem => hu (List.mem_append_left es hmem), fun hmem => hso (List.mem_append_left es hmem)⟩

end

/-- Settles O11: the one byte that a step stores keeps the form. -/
theorem everyStepKeepsTheMemoryForm : Obligations.EveryStepKeepsTheMemoryForm := by
  intro s t hring hscratch hstep
  obtain ⟨u, rfl, he⟩ := step_effect hstep
  exact ⟨he.stores.1.memoryWf hring, he.stores.2.memoryWf hscratch⟩

/-- Settles O15: the flags by the frame of each agent's step, the bound because the history only grows. -/
theorem stickyFlagsFallOnlyByClrflags : Obligations.StickyFlagsFallOnlyByClrflags := by
  intro s t hstep
  refine ⟨mt (respectsRealTime_of_step hstep), ?_⟩
  obtain ⟨u, rfl, he⟩ := step_effect hstep
  exact he.flags

/-- Settles O14: each agent's frame leaves the other agents' elements as they are. -/
theorem eachElementHasItsWriters : Obligations.EachElementHasItsWriters := by
  intro s t hstep
  obtain ⟨u, rfl, he⟩ := step_effect hstep
  cases he with
  | passes => simp
  | host a hturn =>
    rw [hostStep_frame]
    simp [hturn]
  | tickSource hturn =>
    rw [tickSource_frame]
    simp [hturn]
  | command c _ hturn _ _ he =>
    rw [he.frame.frame]
    simp [hturn]
  | producer _ hturn _ he =>
    rw [he.frame.frame]
    simp [hturn]
  | consumer _ hturn he =>
    rw [he.frame.frame]
    simp [hturn]

end Sys2Proof.Machine
end

section
/-! The invariant of the block (R109, R114, R115, R118, R404, R535, R541, R551, R552, R620): every operation
keeps it where its agent may run it, and so every step does. -/

namespace Sys2Proof.Machine

open Sys2Proof.Safety

/-! ### What the invariant asks of its parts -/

theorem bestDivisor_mem (d s : Short) (ts : List Short) : bestDivisor d s ts ∈ s :: ts := by
  induction ts generalizing s with
  | nil => exact List.mem_singleton_self s
  | cons t ts ih =>
    simp only [bestDivisor]
    split
    exacts [List.mem_cons_of_mem s (ih t), List.cons_subset_cons s (List.subset_cons_self t ts) (ih s)]

/-- The fallback for a divisor is a supported one (R422). -/
theorem nearestOf_mem {set : List Short} (d : Short) (h : set ≠ []) : nearestOf set d ∈ set := by
  cases set with
  | nil => exact absurd rfl h
  | cons s ts => exact bestDivisor_mem d s ts

theorem divisors_ne_nil {p : Params} (h : p.wf = true) : p.supportedDivisors ≠ [] := by
  intro he
  simp [Params.wf, he] at h

theorem totalBlocks_pos {p : Params} (h : p.wf = true) : 1 ≤ p.totalBlocks := by
  simp only [Params.wf, Bool.and_eq_true, decide_eq_true_eq] at h
  obtain ⟨⟨⟨-, hpos⟩, -⟩, -⟩ := h
  exact hpos

theorem nextCursor_lt {p : Params} (cursor : Word) (h : 1 ≤ p.totalBlocks) :
    (nextCursor p cursor).toNat < p.totalBlocks := by
  have hlt := Nat.mod_lt (cursor.toNat + 1) h
  have hle := Nat.mod_le ((cursor.toNat + 1) % p.totalBlocks) (2 ^ 32)
  simp only [nextCursor, BitVec.toNat_ofNat]
  omega

section
variable {n : Nat} {s t : State} {k : HazardKind}

theorem Grows.shown (h : Grows n s t) (hs : hazardFlag k s = true → .hazard k ∈ s.history)
    (ht : hazardFlag k t = true) : .hazard k ∈ t.history := by
  obtain ⟨es, hes, -, hk⟩ := h
  rw [hes, List.mem_append]
  cases hf : hazardFlag k s
  exacts [.inr ((hk k).1 hf ht), .inl (hs hf)]

end

/-- A DAC frame has its transaction open between its START and its STOP (R505). -/
theorem openAfter_dacFrame {p : Params} {v : Byte} {k : Nat} {prim : I2cPrim} {b : Bool}
    (hp : (dacFrame p v)[k]? = some prim) (hb : b = true ↔ k ≠ 0) : openAfter prim b = true ↔ k + 1 < 6 := by
  match k with
  | 0 | 1 | 2 | 3 | 4 | 5 => cases hp; simp [openAfter, hb]
  | n + 6 => simp [dacFrame] at hp

/-- The handler may leave first and advance the index then (R538). -/
theorem exitHandler_eq (s : State) : exitHandler s = advancePlayIndex { s with inHandler := false } := by
  unfold exitHandler advancePlayIndex
  dsimp only
  split_ifs <;> simp only [signal_eq]

end Sys2Proof.Machine

namespace Sys2Proof.Safety

open Sys2Proof.Machine

/-! ### Updates that keep the invariant -/

section
variable {s : State}

/-- No sequencer of an SPI-class command is under way while that class is refused (R404, R546). -/
theorem Inv.spiRunning_eq_false (h : Inv s) (hbusy : spiBusy s = true) : spiRunning s = false := by
  unfold spiRunning
  cases hc : s.cur with
  | none => rfl
  | some c =>
    have hcmd := h.command c hc
    cases hp : c.pos <;> simp_all [CommandInv]

/-- A command that does not run on the SPI bus depends on `PLAYING` and `I2C_OPEN` alone. -/
theorem commandInv_of_not_spiRunning {t : State} {c : Command} (hrun : spiRunning s = false) (hc : s.cur = some c)
    (hpl : t.playing = s.playing) (ho : t.i2cOpen = s.i2cOpen) (h : CommandInv s c.pos) : CommandInv t c.pos := by
  cases hp : c.pos <;> simp_all [CommandInv, spiRunning]

theorem Inv.setEnv (h : Inv s) (e : Env) : Inv { s with env := e } := { h with }

theorem Inv.append (h : Inv s) (es : List Event) : Inv { s with history := s.history ++ es } :=
  { h with
    underrunShown := fun hu => List.mem_append_left es (h.underrunShown hu)
    sigOverrunShown := fun hu => List.mem_append_left es (h.sigOverrunShown hu)
    tickLostShown := fun hu => List.mem_append_left es (h.tickLostShown hu) }

theorem Inv.after_selectCard (h : Inv s) (v : Bool) : Inv (selectCard v s) := { h.append [.cs v] with }

theorem Inv.after_xfer (h : Inv s) (b : Byte) : Inv (xfer b s) :=
  { h.append [.spi s.cs b (cardAnswer s)] with }

theorem Inv.after_recv (h : Inv s) : Inv (recv s) := h.after_xfer filler

theorem Inv.after_finish (h : Inv s) (code : ResultCode) : Inv (finish code s) :=
  { h with busy := rfl, command := nofun }

theorem Inv.after_clearFlags (h : Inv s) : Inv (clearFlags s) :=
  { h with rerr := fun _ => rfl, underrunShown := nofun, sigOverrunShown := nofun, tickLostShown := nofun }

theorem Inv.after_refillError (h : Inv s) (code : ResultCode) : Inv (refillError code s) := { h with rerr := nofun }

theorem Inv.setDiv (h : Inv s) (d : Short) : Inv { s with div := nearestOf s.cfg.supportedDivisors d } :=
  { h with div := nearestOf_mem d (divisors_ne_nil h.params) }

theorem Inv.after_setPos (h : Inv s) {p : CmdPos} (hp : CommandInv s p) : Inv (setPos p s) :=
  { h with
    busy := by simpa [setPos] using h.busy
    command := fun c hc => by
      obtain ⟨d, -, rfl⟩ := Option.map_eq_some_iff.1 hc
      exact hp }

/-- A command is accepted, or goes on, at a position that the state allows. -/
theorem Inv.take (h : Inv s) {c : Command} (hp : CommandInv s c.pos) : Inv { s with busy := true, cur := some c } :=
  { h with busy := rfl, command := fun _ hc => Option.some.inj hc ▸ hp }

/-- `CARD` may change with no command under way while the SPI class is not refused. -/
theorem Inv.setCard (h : Inv s) (hcur : s.cur = none) (hfree : spiBusy s = false) (k : Card) :
    Inv { s with card := k } := by
  obtain ⟨hpl, hprod, hsem⟩ := spiBusy_eq_false.1 hfree
  exact { h with cardReady := by simp [hpl, hprod, hsem], command := by simp [hcur] }

/-- The I2C bus may change hands with no command under way while playback is stopped. -/
theorem Inv.setI2cOpen (h : Inv s) (hcur : s.cur = none) (hpl : s.playing = false) (b : Bool) :
    Inv { s with i2cOpen := b } :=
  { h with
    handler := fun hin => absurd (h.handler hin).1 (by simp [hpl])
    i2cFree := by simp [hpl]
    command := by simp [hcur] }

/-- The producer may begin or end a fill while no command is running on the SPI bus. -/
theorem Inv.setProd (h : Inv s) (hrun : spiRunning s = false) (hcard : s.card.ready = true) (p : Producer) :
    Inv { s with prod := p } :=
  { h with
    cardReady := fun _ => hcard
    command := fun c hc => commandInv_of_not_spiRunning hrun hc rfl rfl (h.command c hc) }

/-! ### SD_INIT and SD_READ -/

theorem Inv.after_failInit (h : Inv s) (hfree : spiBusy s = false) (code : ResultCode) : Inv (failInit code s) :=
  ((h.after_selectCard false).after_finish code).setCard rfl hfree .failed

theorem Inv.after_finishInit (h : Inv s) (hfree : spiBusy s = false) (o : Byte) : Inv (finishInit o s) :=
  (((h.after_selectCard false).after_finish .ok).setDiv s.cfg.fastDivisor).setCard rfl hfree (classify o)

/-- SD_INIT goes on to `p`; what its positions ask of the state does not depend on the position. -/
theorem Inv.continueInit (h : Inv s) (hq : spiBusy s = false ∧ s.card = .uninitialized) (p : InitPos) :
    Inv (setPos (.init p) s) :=
  h.after_setPos hq

theorem Inv.after_initResponse (h : Inv s) (hq : spiBusy s = false ∧ s.card = .uninitialized) (c : InitCommand)
    (r : Byte) : Inv (initResponse c r s) := by
  cases c with
  | goIdle | ifCond | readOcr =>
    simp only [initResponse]
    split
    exacts [h.continueInit hq _, h.after_failInit hq.1 _]
  | appCmd used => exact h.continueInit hq _
  | opCond used =>
    simp only [initResponse]
    split_ifs
    exacts [h.continueInit hq _, h.continueInit hq _, h.after_failInit hq.1 _]

theorem Inv.after_initStep (h : Inv s) {p : InitPos} (hp : CommandInv s (.init p)) : Inv (initStep p s) := by
  cases p with
  | command c p =>
    cases p with
    | frame k =>
      simp only [initStep, selectBefore]
      split
      exacts [((h.after_selectCard true).after_xfer _).continueInit hp _, (h.after_xfer _).continueInit hp _]
    | poll polled =>
      simp only [initStep]
      split
      exacts [h.after_recv.after_initResponse hp _ _, h.after_recv.continueInit hp _]
  | ifCondReply k =>
    simp only [initStep]
    split_ifs
    exacts [h.after_recv.continueInit hp _, h.after_recv.continueInit hp _, h.after_recv.after_failInit hp.1 _]
  | ocrReply k o =>
    simp only [initStep]
    split
    exacts [h.after_recv.continueInit hp _, h.after_recv.after_finishInit hp.1 _]

theorem Inv.after_wakeStep (h : Inv s) {k : Fin 10} (hk : CommandInv s (.wake k)) : Inv (wakeStep k s) := by
  unfold wakeStep
  split
  exacts [(h.after_xfer filler).after_setPos hk, (h.after_xfer filler).after_setPos hk]

theorem Inv.after_readTransfer (h : Inv s) {d : Dest} {offset length : Nat} (addr : Word) (p : ReadPos)
    (hr : Stores ringSize s.ring (readMemory d .ring offset length p (cardAnswer s) s.ring))
    (hs : Stores blockSize s.scratch (readMemory d .scratch offset length p (cardAnswer s) s.scratch)) :
    Inv (readTransfer d offset length addr p s) := by
  obtain ⟨hring, hbelow⟩ := h.ringForm
  obtain ⟨hscratch, hbelow'⟩ := h.scratchForm
  rw [readTransfer_eq]
  exact { h.append _ with
    ringForm := ⟨hr.memoryWf hring, hr.memoryBelow hbelow⟩
    scratchForm := ⟨hs.memoryWf hscratch, hs.memoryBelow hbelow'⟩ }

theorem Inv.after_commandReadStep (h : Inv s) (c : Command) (r : ReadSeq) (hr : CommandInv s (.read r)) :
    Inv (commandReadStep c r s) := by
  have ht := h.after_readTransfer (d := .scratch) (offset := c.offset) (length := c.length) r.addr r.pos
    (.inl (readMemory_other (by decide) _ _ _ _ _)) (readMemory_scratch_stores _ _ _ _ _)
  simp only [commandReadStep, readStep_eq]
  rw [readTransfer_eq] at ht ⊢
  cases readNext s.cfg r.pos (cardAnswer s) with
  | go p => exact ht.after_setPos hr
  | done code => exact (ht.after_selectCard false).after_finish code

/-! ### The producer -/

theorem Inv.after_finishRefill (h : Inv s) (hrun : spiRunning s = false) (hcard : s.card.ready = true) (hf : Half)
    (code : ResultCode) : Inv (finishRefill hf code s) := by
  rw [finishRefill_eq]
  exact { h.setProd hrun hcard .waiting with
    cursor := by
      dsimp only
      split
      exacts [nextCursor_lt s.cursor (totalBlocks_pos h.params), h.cursor]
    rerr := fun hre => by
      obtain ⟨hre, hok⟩ := Bool.or_eq_false_iff.1 hre
      simp [h.rerr hre, of_decide_eq_false hok] }

theorem Inv.after_producerReadStep (h : Inv s) (hrun : spiRunning s = false) (hcard : s.card.ready = true) (hf : Half)
    (r : ReadSeq) : Inv (producerReadStep hf r s) := by
  have ht := h.after_readTransfer (d := .ring) r.addr r.pos (readMemory_ring_stores hf _ _ _)
    (.inl (readMemory_other (by decide) _ _ _ _ _))
  simp only [producerReadStep, readStep_eq]
  rw [readTransfer_eq] at ht ⊢
  cases readNext s.cfg r.pos (cardAnswer s) with
  | go p => exact ht.setProd hrun hcard _
  | done code => exact (ht.after_selectCard false).after_finishRefill hrun hcard hf code

/-- The wake of the producer takes the signal, while no command is running on the SPI bus. -/
theorem Inv.takeSignal (h : Inv s) (hrun : spiRunning s = false) : Inv { s with sem := s.sem - 1, pending := none } :=
  { h with
    pendingSignalled := nofun
    pendingSide := nofun
    cardReady := fun hor => h.cardReady (hor.imp_right (.imp_left (Nat.lt_of_lt_of_le · (Nat.sub_le _ _))))
    command := fun c hc => commandInv_of_not_spiRunning hrun hc rfl rfl (h.command c hc) }

theorem Inv.after_refillWake (h : Inv s) (hrun : spiRunning s = false) : Inv (refillWake s) := by
  have hwoken := h.takeSignal hrun
  unfold refillWake
  cases s.pending with
  | none => exact hwoken
  | some hf =>
    dsimp only
    split
    · rename_i hcard
      exact hwoken.after_producerReadStep hrun hcard hf _
    · exact hwoken.after_refillError _

theorem Inv.after_producer {t : State} (h : Inv s) (he : ProducerEffect s t) : Inv t := by
  cases he with
  | wakes _ _ hrun => exact h.after_refillWake hrun
  | fills hf r hprod =>
    have hbusy : spiBusy s = true := by simp [spiBusy, hprod, Producer.active]
    have hcard := h.cardReady (.inr (.inr (by simp [hprod])))
    exact h.after_producerReadStep (h.spiRunning_eq_false hbusy) hcard hf r

/-! ### The command engine -/

/-- During playback an accepted command has not begun: every later position needs playback stopped (R404). -/
theorem Inv.decode_of_playing (h : Inv s) (hpl : s.playing = true) {c : Command} (hc : s.cur = some c) :
    c.pos = .decode := by
  have hcmd := h.command c hc
  cases hp : c.pos <;> simp_all [CommandInv, spiBusy]

theorem Inv.startPlaying (h : Inv s) (hcur : s.cur = none) (ho : s.i2cOpen = false) (hcard : s.card.ready = true) :
    Inv { s with playing := true } :=
  { h with
    cardReady := fun _ => hcard
    latch := fun _ => rfl
    handler := fun hin => ⟨rfl, (h.handler hin).2⟩
    i2cFree := fun _ _ => ho
    command := by simp [hcur] }

theorem Inv.stopPlaying (h : Inv s) (hin : s.inHandler = false) {c : Command} (hc : s.cur = some c)
    (hp : c.pos = .decode) : Inv { s with playing := false, tickLatch := false } :=
  { h with
    cardReady := fun hor => h.cardReady (.inr (hor.resolve_left nofun))
    latch := nofun
    handler := fun hin' => absurd hin' (by simp [hin])
    i2cFree := nofun
    command := fun d hd => by
      obtain rfl : c = d := Option.some.inj (hc.symm.trans hd)
      rw [hp]
      trivial }

/-- A command goes on to `p` with the I2C bus as `p` needs it, while playback is stopped. -/
theorem Inv.continueI2c (h : Inv s) (hpl : s.playing = false) {b : Bool} {p : CmdPos}
    (hp : CommandInv { s with i2cOpen := b } p) : Inv (setPos p { s with i2cOpen := b }) :=
  { h with
    busy := by simpa [setPos] using h.busy
    handler := fun hin => absurd (h.handler hin).1 (by simp [hpl])
    i2cFree := by simp [setPos, hpl]
    command := fun c hc => by
      obtain ⟨d, -, rfl⟩ := Option.map_eq_some_iff.1 hc
      exact hp }

theorem Inv.after_prim (h : Inv s) (hpl : s.playing = false) (prim : I2cPrim) (ack : Bool) :
    Inv (finish .ok (completePrim prim ack (takeI2cAnswer s))) := by
  rw [completePrim_eq]
  exact ((((h.append _).setEnv _).after_finish .ok).setI2cOpen rfl hpl _)

theorem Inv.after_framePrim (h : Inv s) {k : Fin 6} (hk : CommandInv s (.dac k)) {v : Byte} {prim : I2cPrim}
    (hprim : (dacFrame s.cfg v)[k.val]? = some prim) (ack : Bool) :
    Inv (afterDacPrim k (completePrim prim ack (takeI2cAnswer s))) := by
  obtain ⟨hpl, ho⟩ := hk
  have hopen := openAfter_dacFrame hprim (ho.trans Fin.val_ne_zero_iff.symm)
  unfold afterDacPrim
  split
  · rename_i hlt
    rw [completePrim_eq]
    exact ((h.append _).setEnv _).continueI2c hpl
      ⟨hpl, iff_of_true (hopen.2 hlt) (Fin.ne_of_val_ne (Nat.succ_ne_zero _))⟩
  · exact h.after_prim hpl prim ack

theorem Inv.after_command {c : Command} {t : State} (h : Inv s) (hc : s.cur = some c) (hready : taskReady s = true)
    (he : CommandEffect c s t) : Inv t := by
  have hcmd := h.command c hc
  cases he with
  | ends code => exact h.after_finish code
  | clears => exact h.after_clearFlags.after_finish .ok
  | sends b => exact (h.after_xfer b).after_finish .ok
  | receives b => exact { (h.after_xfer b).after_finish .ok with }
  | setsDivisor d => exact (h.setDiv d).after_finish .ok
  | selects v => exact (h.after_selectCard v).after_finish .ok
  | startsInit _ hfree hcard => exact ((h.setDiv _).after_selectCard false).after_wakeStep ⟨hfree, hcard⟩
  | startsRead addr _ hfree hcard => exact h.after_commandReadStep c _ ⟨hfree, hcard⟩
  | waitsForPrim _ hpl => exact h.after_setPos hpl
  | startsFrame _ hpl ho => exact h.after_setPos ⟨hpl, by simp [ho]⟩
  | startsPlayback _ ho hcard => exact (h.after_finish .ok).startPlaying rfl ho hcard
  | stopsPlayback hp hpl =>
    have hin := (taskReady_eq_true.1 hready).1
    exact (h.stopPlaying hin hc hp).after_setPos ⟨rfl, by simp [h.i2cFree hpl hin]⟩
  | wakes k hp => exact h.after_wakeStep (k := k) (hp ▸ hcmd)
  | inits p hp => exact h.after_initStep (hp ▸ hcmd)
  | reads r hp => exact h.after_commandReadStep c r (hp ▸ hcmd)
  | completesPrim prim ack hp =>
    rw [hp] at hcmd
    exact h.after_prim hcmd prim ack
  | completesFramePrim v k prim ack hp hprim => exact h.after_framePrim (hp ▸ hcmd) hprim ack

/-! ### The consumer -/

/-- The handler's own state and the I2C bus may change together during playback, when no command holds the bus. -/
theorem Inv.setHandler (h : Inv s) (hpl : s.playing = true) {b inh : Bool} {p : Fin 7}
    (hin : inh = true → p.val < 6 ∧ (b = true ↔ p ≠ 0)) (hout : inh = false → b = false) :
    Inv { s with i2cOpen := b, inHandler := inh, hpos := p } :=
  { h with
    handler := fun hi => ⟨hpl, hin hi⟩
    i2cFree := fun _ => hout
    command := fun c hc => by
      rw [h.decode_of_playing hpl hc]
      trivial }

theorem Inv.after_enterHandler (h : Inv s) (hpl : s.playing = true) (hin : s.inHandler = false) :
    Inv (enterHandler s) := by
  have hgrows := enterHandler_grows s
  have hset := h.setHandler (b := s.i2cOpen) (inh := true) (p := 0) hpl
    (fun _ => ⟨by decide, by simp [h.i2cFree hpl hin]⟩) nofun
  rw [enterHandler_eq] at hgrows ⊢
  exact { hset with
    latch := nofun
    underrunShown := hgrows.shown (k := .underrun) h.underrunShown
    sigOverrunShown := hgrows.shown (k := .signalOverrun) h.sigOverrunShown
    tickLostShown := hgrows.shown (k := .tickLost) h.tickLostShown }

/-- The play index moves on, and a signal for the half it has left follows (R538, R539, R545). -/
theorem Inv.after_signal (h : Inv s) (hpl : s.playing = true) {i : BitVec 9} {hf : Half} (hi : i.toNat < ringSize)
    (hside : halfOf i.toNat ≠ hf) : Inv (signal hf { s with playIndex := i }) := by
  have hgrows := signal_grows { s with playIndex := i } hf
  rw [signal_eq] at hgrows ⊢
  exact { h with
    playIndex := hi
    pendingSignalled := fun _ => Nat.succ_pos _
    pendingSide := fun _ hh => Option.some.inj hh ▸ hside
    cardReady := fun _ => h.cardReady (.inl hpl)
    command := fun c hc => by
      rw [h.decode_of_playing hpl hc]
      trivial
    underrunShown := hgrows.shown (k := .underrun) h.underrunShown
    sigOverrunShown := hgrows.shown (k := .signalOverrun) h.sigOverrunShown
    tickLostShown := hgrows.shown (k := .tickLost) h.tickLostShown }

theorem Inv.after_advancePlayIndex (h : Inv s) (hpl : s.playing = true) : Inv (advancePlayIndex s) := by
  have hlt : s.playIndex.toNat < 400 := h.playIndex
  have hnext : (s.playIndex + 1).toNat = s.playIndex.toNat + 1 := by bv_omega
  unfold advancePlayIndex
  dsimp only
  split_ifs with hlower hupper
  · rw [hlower]
    exact h.after_signal hpl (by decide) (by decide)
  · exact h.after_signal hpl (by decide) (by decide)
  · have hne : s.playIndex.toNat + 1 ≠ 200 ∧ s.playIndex.toNat + 1 ≠ 400 := by constructor <;> bv_omega
    have hhalf : halfOf (s.playIndex + 1).toNat = halfOf s.playIndex.toNat := by
      simp only [halfOf, halfSize, hnext]
      exact if_congr (by omega) rfl rfl
    exact { h with
      playIndex := by simp only [hnext, ringSize]; omega
      pendingSide := fun hf hh => hhalf ▸ h.pendingSide hf hh }

theorem Inv.after_handlerPrim (h : Inv s) (hin : s.inHandler = true) {prim : I2cPrim}
    (hprim : (dacFrame s.cfg s.hsample)[s.hpos.val]? = some prim) (ack : Bool) :
    Inv (handlerAdvance (completePrim prim ack (takeI2cAnswer s))) := by
  obtain ⟨hpl, hlt, ho⟩ := h.handler hin
  have hopen := openAfter_dacFrame hprim (ho.trans Fin.val_ne_zero_iff.symm)
  have hnext : (s.hpos + 1).val = s.hpos.val + 1 := Fin.val_add_one_of_lt hlt
  have hset := fun inh => ((h.append [primEvent prim ack]).setEnv (takeI2cAnswer s).env).setHandler (inh := inh) hpl
    (b := openAfter prim s.i2cOpen) (p := s.hpos + 1)
  rw [completePrim_eq]
  unfold handlerAdvance
  dsimp only
  split
  · rename_i hlast
    have hclosed : openAfter prim s.i2cOpen = false := by
      have hsix : s.hpos.val + 1 = 6 := hnext.symm.trans (congrArg Fin.val hlast)
      simpa [hsix] using hopen
    rw [exitHandler_eq]
    exact (hset false nofun fun _ => hclosed).after_advancePlayIndex hpl
  · rename_i hmore
    have hlt' : s.hpos.val + 1 < 6 := by
      have hne : s.hpos.val + 1 ≠ 6 := fun he => hmore (Fin.ext (hnext.trans he))
      omega
    have hpos : s.hpos + 1 ≠ 0 := Fin.ne_of_val_ne (by simp [hnext])
    exact hset s.inHandler (fun _ => ⟨hnext.trans_lt hlt', iff_of_true (hopen.2 hlt') hpos⟩) (by simp [hin])

theorem Inv.after_consumer {t : State} (h : Inv s) (he : ConsumerEffect s t) : Inv t := by
  cases he with
  | enters hin hpl => exact h.after_enterHandler hpl hin
  | completes prim ack hin hprim => exact h.after_handlerPrim hin hprim ack

/-! ### The host, the tick source and the step -/

theorem Inv.after_issue (h : Inv s) (w : Word) : Inv (issue w s) := by
  unfold issue
  split
  exacts [{ h with }, h.take trivial]

theorem Inv.after_hostStep (h : Inv s) (a : HostAccess) : Inv (hostStep a s) := by
  unfold hostStep
  split_ifs
  · exact h
  · cases a with
    | read off size => exact h.setEnv _
    | write off size w =>
      simp only [takenAccess, writeRegister]
      split_ifs
      exacts [h.after_issue w, { h with }, { h with }, { h with }, h]
  · exact { h with }

theorem Inv.after_tickSource (h : Inv s) : Inv (tickSource s) := by
  unfold tickSource
  split_ifs with hpl
  · exact { h.append [.hazard .tickLost] with
      tickLostShown := fun _ => List.mem_append_right _ (List.mem_singleton_self _) }
  · exact { h with latch := fun _ => hpl }
  · exact h

theorem Inv.after_step {t : State} (h : Inv s) (hstep : step s = .next t) : Inv t := by
  obtain ⟨u, rfl, he⟩ := step_effect hstep
  refine Inv.setEnv ?_ _
  cases he with
  | passes => exact h
  | host a => exact h.after_hostStep a
  | tickSource => exact h.after_tickSource
  | command c _ _ hc hready he => exact h.after_command hc hready he
  | producer _ _ _ he => exact h.after_producer he
  | consumer _ _ he => exact h.after_consumer he

/-- `CARD` is written by SD_INIT past its wake-up bytes alone, when it is `Uninitialized` (R109, R453). -/
theorem Inv.card_of_stepEffect {t : State} (h : Inv s) (he : StepEffect s t) :
    t.card = s.card ∨ (s.card = .uninitialized ∧ t.card ≠ .uninitialized) := by
  cases he with
  | passes => exact .inl rfl
  | host a => exact .inl (congrArg State.card (hostStep_frame a s) :)
  | tickSource => exact .inl (congrArg State.card (tickSource_frame s) :)
  | command c _ _ hc _ he =>
    refine he.frame.card.imp_right fun ⟨⟨p, hp⟩, hcard⟩ => ⟨?_, hcard⟩
    have hcmd := h.command c hc
    rw [hp] at hcmd
    exact hcmd.2
  | producer _ _ _ he => exact .inl (congrArg State.card he.frame.frame :)
  | consumer _ _ he => exact .inl (congrArg State.card he.frame.frame :)

end

/-- Settles O10: the invariant is inductive, since each effect a step can have keeps it. -/
theorem everyStepKeepsTheInvariant : Obligations.EveryStepKeepsTheInvariant := fun _ _ => Inv.after_step

/-- Settles O13: only SD_INIT past its wake-up bytes writes `CARD`, and the invariant has it `Uninitialized` there. -/
theorem cardLeavesUninitializedOnly : Obligations.CardLeavesUninitializedOnly := by
  intro s t h hstep
  obtain ⟨u, rfl, he⟩ := step_effect hstep
  exact h.card_of_stepEffect (t := u) he

end Sys2Proof.Safety
end

section
/-! The step goes on from every state of the invariant (R114, R536): the only operation that stops the machine is a
handler entry at an index that the ring does not have. -/

namespace Sys2Proof.Machine

open Sys2Proof.Safety

/-- An operation that has a next state, or whose agent has no step. -/
inductive Proceeds : Outcome → Prop
  | next (t : State) : Proceeds (.next t)
  | noStep : Proceeds (.refused .noStep)

theorem Proceeds.ite {p : Prop} [Decidable p] {o o' : Outcome} (h : Proceeds o) (h' : Proceeds o') :
    Proceeds (if p then o else o') := by
  split
  exacts [h, h']

section
variable (s : State)

/-! ### Commands -/

theorem onCommand_proceeds (i : Instr) {body : Command → Outcome} (h : ∀ c, Proceeds (body c)) :
    Proceeds (onCommand i s body) := by
  unfold onCommand
  split
  exacts [.ite (h _) .noStep, .noStep]

theorem inDecodeStep_proceeds (i : Instr) (effect : Command → State) : Proceeds (inDecodeStep i s effect) :=
  onCommand_proceeds s i fun _ => .ite (.next _) .noStep

theorem singlePrim_proceeds (i : Instr) (needs : Bool) (prim : I2cPrim) : Proceeds (singlePrim i needs prim s) := by
  refine onCommand_proceeds s i fun c => ?_
  cases c.pos with
  | decode => exact .next _
  | i2c =>
    simp only [singlePrimStep]
    split
    exacts [.next _, .noStep]
  | wake _ | init _ | read _ | dac _ => exact .noStep

theorem commandDacStep_proceeds (v : Byte) (k : Fin 6) : Proceeds (commandDacStep v k s) := by
  unfold commandDacStep
  split
  · split
    exacts [.next _, .noStep]
  · exact .noStep

theorem execDacWrite_proceeds (v : Byte) : Proceeds (execDacWrite v s) := by
  refine onCommand_proceeds s _ fun c => ?_
  cases c.pos with
  | decode => exact .next _
  | dac k => exact commandDacStep_proceeds s v k
  | wake _ | init _ | read _ | i2c => exact .noStep

theorem execPbStop_proceeds : Proceeds (execPbStop s) := by
  refine onCommand_proceeds s _ fun c => ?_
  cases c.pos with
  | decode => exact .next _
  | dac k => exact commandDacStep_proceeds s _ k
  | wake _ | init _ | read _ | i2c => exact .noStep

theorem execSdInit_proceeds : Proceeds (execSdInit s) := by
  refine onCommand_proceeds s _ fun c => ?_
  cases c.pos with
  | decode | wake _ | init _ => exact .next _
  | read _ | i2c | dac _ => exact .noStep

theorem execSdRead_proceeds : Proceeds (execSdRead s) := by
  refine onCommand_proceeds s _ fun c => ?_
  cases c.pos with
  | decode | read _ => exact .next _
  | wake _ | init _ | i2c | dac _ => exact .noStep

/-! ### SD commands and the producer -/

theorem onInitWire_proceeds (i : Instr) : Proceeds (onInitWire i s) := by
  unfold onInitWire
  cases s.cur with
  | none => exact .noStep
  | some c =>
    dsimp only
    cases c.pos with
    | init p => exact .ite (.next _) .noStep
    | decode | wake _ | read _ | i2c | dac _ => exact .noStep

theorem commandReadBlock_proceeds (addr : Word) : Proceeds (commandReadBlock addr s) := by
  unfold commandReadBlock
  cases s.cur with
  | none => exact .noStep
  | some c =>
    dsimp only
    cases c.pos with
    | read r => exact .ite (.next _) .noStep
    | decode | wake _ | init _ | i2c | dac _ => exact .noStep

theorem producerReadBlock_proceeds (addr : Word) : Proceeds (producerReadBlock addr s) := by
  unfold producerReadBlock
  cases s.prod with
  | waiting => exact .noStep
  | filling h r => exact .ite (.next _) .noStep

theorem execReadSingleBlock_proceeds (addr : Word) : Proceeds (execReadSingleBlock addr s) := by
  unfold execReadSingleBlock
  refine .ite ?_ .noStep
  cases s.turn with
  | cmd => exact commandReadBlock_proceeds s addr
  | prod => exact producerReadBlock_proceeds s addr
  | host _ | cons | tickSrc => exact .noStep

theorem execRefill_proceeds : Proceeds (execRefill s) := by
  unfold execRefill
  refine .ite ?_ .noStep
  cases s.prod with
  | waiting => exact .ite (.next _) .noStep
  | filling h r => exact .next _

/-! ### The instructions and the agents -/

theorem exec_proceeds {i : Instr} (hi : i ≠ .tick) : Proceeds (exec i s) := by
  cases i with
  | tick => exact absurd rfl hi
  | nop | clrFlags | spiXfer _ | spiSend _ | spiRecv | spiSetDiv | spiSelect | spiDeselect | pbStart =>
    exact inDecodeStep_proceeds s _ _
  | sdInit => exact execSdInit_proceeds s
  | sdRead => exact execSdRead_proceeds s
  | i2cStart | i2cWrite _ | i2cStop => exact singlePrim_proceeds s _ _ _
  | dacWrite v => exact execDacWrite_proceeds s v
  | pbStop => exact execPbStop_proceeds s
  | refill => exact execRefill_proceeds s
  | goIdleState | sendIfCond | appCmd | sendOpCond | readOcr => exact onInitWire_proceeds s _
  | readSingleBlock addr => exact execReadSingleBlock_proceeds s addr

theorem handlerStep_proceeds : Proceeds (handlerStep s) := by
  unfold handlerStep
  split
  · split
    exacts [.next _, .noStep]
  · exact .noStep

theorem commandAgent_proceeds : Proceeds (commandAgent s) := by
  unfold commandAgent
  split
  · exact .noStep
  · split
    · rename_i hi
      exact exec_proceeds s (Command.current_encoded hi).1
    · exact .ite (.next _) .noStep

/-- The consumer alone can stop the machine, at an index that the ring does not have (R114, R536). -/
theorem consumerAgent_outcome :
    Proceeds (consumerAgent s) ∨ (consumerAgent s = .fault .ringIndex ∧ ringSize ≤ s.playIndex.toNat) := by
  simp only [consumerAgent, exec, execTick]
  split_ifs with hin hwaits hidx
  · exact .inl (handlerStep_proceeds s)
  · exact .inl (.next _)
  · exact .inr ⟨rfl, not_lt.1 hidx⟩
  · exact .inl .noStep

theorem agentStep_outcome :
    Proceeds (agentStep s) ∨ (agentStep s = .fault .ringIndex ∧ ringSize ≤ s.playIndex.toNat) := by
  unfold agentStep
  cases s.turn with
  | host a => exact .inl (.ite .noStep (.next _))
  | tickSrc => exact .inl (.ite (.next _) .noStep)
  | cmd => exact .inl (commandAgent_proceeds s)
  | prod => exact .inl (exec_proceeds s s.prod.current_ne_tick)
  | cons => exact consumerAgent_outcome s

theorem Proceeds.settle {o : Outcome} (h : Proceeds o) : ∃ t, settle s o = .next t := by
  cases h with
  | next t => exact ⟨t.advance, rfl⟩
  | noStep => exact ⟨s.advance, rfl⟩

theorem step_outcome :
    (∃ t, step s = .next t) ∨ (step s = .fault .ringIndex ∧ ringSize ≤ s.playIndex.toNat) := by
  obtain hproceeds | ⟨hfault, hidx⟩ := agentStep_outcome s
  · exact .inl (hproceeds.settle s)
  · exact .inr ⟨by rw [step, hfault, settle], hidx⟩

end

/-- Settles O12: the one fault needs an index of 400 or more, which the invariant excludes. -/
theorem invariantKeepsTheMachineRunning : Obligations.InvariantKeepsTheMachineRunning := by
  refine ⟨fun s h => ?_, fun s f hstep => ?_, fun s r hstep => ?_⟩
  · exact (step_outcome s).resolve_right fun ⟨_, hidx⟩ => absurd h.playIndex (not_lt.2 hidx)
  · obtain ⟨t, hnext⟩ | ⟨hfault, hidx⟩ := step_outcome s
    · cases hnext.symm.trans hstep
    · cases hfault.symm.trans hstep
      exact ⟨rfl, hidx⟩
  · obtain ⟨t, hnext⟩ | ⟨hfault, -⟩ := step_outcome s
    · cases hnext.symm.trans hstep
    · cases hfault.symm.trans hstep

end Sys2Proof.Machine
end

section
/-! The fields of `STATUS` (R211): each is read off the word's concatenation, and its code has the number that
the tables list (R109, R115, R600). -/

namespace Sys2Proof.Machine

open Sys2Proof.Safety

theorem ResultCode.code_toNat (r : ResultCode) : r.code.toNat = resultNumber r := by
  cases r <;> rfl

theorem Card.code_toNat (c : Card) : c.code.toNat = cardNumber c := by
  cases c <;> rfl

theorem pendingCode_toNat (p : Option Half) : (pendingCode p).toNat = pendingNumber p := by
  rcases p with _ | _ | _ <;> rfl

theorem Producer.active_eq (p : Producer) : p.active = decide (p ≠ .waiting) := by
  cases p <;> simp [Producer.active]

section
variable (s : State)

/-- The bits of `STATUS` that are fields of their own. -/
theorem statusWord_bits :
    (statusWord s).getLsbD 0 = s.busy ∧ (statusWord s).getLsbD 3 = s.playing ∧
      (statusWord s).getLsbD 6 = s.prod.active ∧ (statusWord s).getLsbD 7 = s.cs ∧
      (statusWord s).getLsbD 12 = s.i2cOpen ∧ (statusWord s).getLsbD 13 = s.inHandler ∧
      (statusWord s).getLsbD 14 = s.tickLatch ∧ (statusWord s).getLsbD 15 = false ∧
      (statusWord s).getLsbD 24 = s.underrun ∧ (statusWord s).getLsbD 25 = s.sigOverrun ∧
      (statusWord s).getLsbD 26 = s.cmdLost ∧ (statusWord s).getLsbD 27 = s.tickLost ∧
      (statusWord s).getLsbD 28 = s.refillErr := by
  unfold statusWord
  simp only [BitVec.getLsbD_append]
  simp

/-- The wider fields of `STATUS`, the reserved one included. -/
theorem statusWord_fields :
    (statusWord s).extractLsb' 1 2 = s.card.code ∧ (statusWord s).extractLsb' 4 2 = pendingCode s.pending ∧
      (statusWord s).extractLsb' 8 4 = s.result.code ∧ (statusWord s).extractLsb' 16 8 = s.rx ∧
      (statusWord s).extractLsb' 29 3 = 0 := by
  unfold statusWord
  simp (disch := omega) only [BitVec.extractLsb'_append_eq_of_add_le, BitVec.extractLsb'_append_eq_of_le]
  refine ⟨?_, ?_, ?_, ?_, ?_⟩ <;> exact BitVec.extractLsb'_eq_self

end

/-- Settles O22: each field holds its element's code, and each code has the table's number. -/
theorem statusHoldsItsFields : Obligations.StatusHoldsItsFields := by
  intro s
  obtain ⟨hbusy, hplaying, hprod, hcs, hopen, hin, hlatch, hreserved, hunder, hover, hcmd, htick, hrefill⟩ :=
    statusWord_bits s
  obtain ⟨hcard, hpending, hresult, hrx, hhigh⟩ := statusWord_fields s
  exact ⟨hbusy, by rw [hcard, Card.code_toNat], hplaying, by rw [hpending, pendingCode_toNat],
    by rw [hprod, Producer.active_eq], hcs, by rw [hresult, ResultCode.code_toNat], hopen, hin, hlatch, hreserved,
    hrx, hunder, hover, hcmd, htick, hrefill, hhigh⟩

end Sys2Proof.Machine
end

section
/-! The host's access (R205 to R208): taken or recorded by its size, alignment and range, with the register map giving
what a taken one reads or writes. -/

namespace Sys2Proof

theorem HostAccess.wf_iff {a : HostAccess} : a.wf = true ↔ a.size = 4 ∧ a.off % 4 = 0 ∧ a.off < 0x1000 := by
  simp [HostAccess.wf, and_assoc]

end Sys2Proof

namespace Sys2Proof.Machine

open Sys2Proof.Safety

section
variable {s : State} {a : HostAccess} {off : Nat}

/-! ### What becomes of an access -/

theorem hostStep_of_faulted (h : s.accessFault = some off) : hostStep a s = s := by
  simp [hostStep, h]

theorem hostStep_of_wf (h : s.accessFault = none) (ha : a.wf = true) : hostStep a s = takenAccess a s := by
  simp [hostStep, h, ha]

theorem hostStep_of_not_wf (h : s.accessFault = none) (ha : ¬ a.wf = true) :
    hostStep a s = { s with accessFault := some a.off } := by
  simp [hostStep, h, ha]

/-- The three tests of R207, all passed. -/
theorem step_of_taken (hturn : s.turn = .host a) (h : s.accessFault = none) (hsize : a.size = 4)
    (halign : a.off % 4 = 0) (hrange : a.off < 0x1000) : step s = .next (takenAccess a s).advance := by
  rw [step_of_turn_host hturn, hostStep_of_wf h (HostAccess.wf_iff.2 ⟨hsize, halign, hrange⟩)]

end

/-! ### The register map, read -/

section
variable (s : State) {off : Nat}

/-- Above `RERR` the map holds the two windows only. -/
theorem readRegister_of_ge (h : 0x028 ≤ off) :
    readRegister s off =
      if 0x200 ≤ off ∧ off < 0x400 then readWordLE s.scratch (off - 0x200)
      else if 0x400 ≤ off ∧ off < 0x590 then readWordLE s.ring (off - 0x400) else 0 := by
  simp (disch := omega) only [readRegister, if_neg]

theorem readRegister_scratch {n : Nat} (h : n < blockSize) :
    readRegister s (0x200 + n) = readWordLE s.scratch n := by
  unfold blockSize at h
  rw [readRegister_of_ge s (by omega), if_pos (by omega), Nat.add_sub_cancel_left]

theorem readRegister_ring {n : Nat} (h : n < ringSize) : readRegister s (0x400 + n) = readWordLE s.ring n := by
  unfold ringSize at h
  rw [readRegister_of_ge s (by omega), if_neg (by omega), if_pos (by omega), Nat.add_sub_cancel_left]

theorem readRegister_below_windows (h : 0x028 ≤ off) (h' : off < 0x200) : readRegister s off = 0 := by
  rw [readRegister_of_ge s h, if_neg (by omega), if_neg (by omega)]

theorem readRegister_above_windows (h : 0x590 ≤ off) : readRegister s off = 0 := by
  rw [readRegister_of_ge s (by omega), if_neg (by omega), if_neg (by omega)]

/-- `SEMCNT` saturates at the register's 16 bits (R210). -/
theorem readRegister_semcnt_toNat : (readRegister s 0x020).toNat = min s.sem 65535 := by
  have hread : readRegister s 0x020 = BitVec.ofNat 32 (min s.sem 65535) := rfl
  rw [hread, BitVec.toNat_ofNat, Nat.mod_eq_of_lt (by omega)]

theorem readRegister_rerr_toNat : (readRegister s 0x024).toNat = resultNumber s.rerr := by
  have hread : readRegister s 0x024 = s.rerr.code.setWidth 32 := rfl
  rw [hread, BitVec.toNat_setWidth_of_le (by omega), ResultCode.code_toNat]

end

/-- Settles O17: an aligned read in range is taken, and the map is read offset by offset. -/
theorem hostReadsTheRegisterMap : Obligations.HostReadsTheRegisterMap :=
  ⟨fun _ _ hturn halign hrange h => step_of_taken hturn h rfl halign hrange, fun s =>
    ⟨rfl, rfl, rfl, rfl, rfl, rfl, rfl, rfl, readRegister_semcnt_toNat s, readRegister_rerr_toNat s,
      fun k hk => readRegister_scratch s (n := 4 * k) (by unfold blockSize; omega),
      fun k hk => readRegister_ring s (n := 4 * k) (by unfold ringSize; omega),
      fun _ => readRegister_below_windows s, fun _ => readRegister_above_windows s⟩⟩

/-! ### The register map, written -/

section
variable (v : Word) (s : State)

theorem writeRegister_block : writeRegister 0x004 v s = { s with block := v } := rfl

theorem writeRegister_xfer : writeRegister 0x008 v s = { s with xfer := v } := rfl

theorem writeRegister_divreq : writeRegister 0x00C v s = { s with divreq := v.extractLsb' 0 16 } := rfl

/-- Only `CMD` and the argument registers are written (R206, R208). -/
theorem writeRegister_elsewhere {off : Nat} (hcmd : off ≠ 0x000) (hblock : off ≠ 0x004) (hxfer : off ≠ 0x008)
    (hdiv : off ≠ 0x00C) : writeRegister off v s = s := by
  simp only [writeRegister, if_neg hcmd, if_neg hblock, if_neg hxfer, if_neg hdiv]

end

/-- Settles O18: an aligned write in range is taken, and the map says what is written at its offset. -/
theorem hostWritesTheArgumentRegisters : Obligations.HostWritesTheArgumentRegisters := by
  intro s off v hturn halign hrange h
  rw [step_of_taken hturn h rfl halign hrange, takenAccess]
  refine ⟨fun hoff => ?_, fun hoff => ?_, fun hoff => ?_, fun hcmd hblock hxfer hdiv => ?_⟩
  · rw [hoff, writeRegister_block]
  · rw [hoff, writeRegister_xfer]
  · rw [hoff, writeRegister_divreq]
  · rw [writeRegister_elsewhere v s hcmd hblock hxfer hdiv]

/-! ### The access that is not taken -/

/-- No step clears the record: the host has none once it has faulted, and no other agent writes it (R125, R207). -/
theorem accessFault_of_step {s t : State} {off : Nat} (h : s.accessFault = some off) (hstep : step s = .next t) :
    t.accessFault = some off := by
  by_cases hhost : ∃ a, s.turn = .host a
  · obtain ⟨a, hturn⟩ := hhost
    rw [step_of_turn_host hturn, hostStep_of_faulted h] at hstep
    cases hstep
    exact h
  · obtain ⟨-, hothers, -⟩ := eachElementHasItsWriters s t hstep
    obtain ⟨-, -, -, hkept⟩ := hothers (not_exists.1 hhost)
    rw [hkept, h]

/-- Settles O21: the access fails one of the three tests of R207; the record is permanent, and the host stops by it. -/
theorem refusedAccessStopsTheHostForGood : Obligations.RefusedAccessStopsTheHostForGood := by
  refine ⟨fun s a hturn h hbad => ?_, fun _ _ _ => accessFault_of_step, fun s off a h hturn => ?_⟩
  · have hwf : ¬ a.wf = true := by
      rw [HostAccess.wf_iff]
      omega
    rw [step_of_turn_host hturn, hostStep_of_not_wf h hwf]
  · rw [step_of_turn_host hturn, hostStep_of_faulted h]

end Sys2Proof.Machine
end

section
/-! The two encodings (R300 to R303, R310, R311): what the decoder and the encoder make of a word, field by field, and of a
frame; that each undoes the other. -/

namespace Sys2Proof

/-! ### The command word -/

section
variable (d opc : Byte)

@[simp] theorem opcOf_commandWord : opcOf (commandWord d opc) = opc := by
  rw [opcOf, commandWord, BitVec.extractLsb'_append_eq_of_add_le (by omega), BitVec.extractLsb'_eq_self]

@[simp] theorem data8Of_commandWord : data8Of (commandWord d opc) = d := by
  rw [data8Of, commandWord, BitVec.extractLsb'_append_eq_of_le (by omega),
    BitVec.extractLsb'_append_eq_of_add_le (by omega), BitVec.extractLsb'_eq_self]

@[simp] theorem reservedOf_commandWord : reservedOf (commandWord d opc) = 0 := by
  rw [reservedOf, commandWord, BitVec.extractLsb'_append_eq_of_le (by omega),
    BitVec.extractLsb'_append_eq_of_le (by omega), BitVec.extractLsb'_eq_self]

/-- The mask of R301 leaves of a command word its opcode. -/
theorem commandWord_masked : commandWord d opc &&& 0xFFFF00FF = commandWord 0 opc := by
  have hmask : (0xFFFF00FF : Word) = BitVec.allOnes 16 ++ 0#8 ++ BitVec.allOnes 8 := rfl
  rw [hmask, commandWord, BitVec.and_append, BitVec.and_append, BitVec.and_allOnes, BitVec.and_zero, BitVec.and_allOnes]
  rfl

theorem decodeCommand_commandWord : decodeCommand (commandWord d opc) = decodeFields opc d 0 := by
  rw [decodeCommand, opcOf_commandWord, data8Of_commandWord, reservedOf_commandWord]

end

/-- A word without reserved bits is made of its two fields (R300). -/
theorem commandWord_of_fields {w : Word} (h : reservedOf w = 0) : commandWord (data8Of w) (opcOf w) = w := by
  rw [commandWord, ← h, reservedOf, data8Of, opcOf, BitVec.extractLsb'_append_extractLsb'_eq_extractLsb' (by rfl),
    BitVec.extractLsb'_append_extractLsb'_eq_extractLsb' (by rfl), BitVec.extractLsb'_eq_self]

theorem decodeFields_ok {opc d : Byte} {reserved : Short} {i : Instr} (h : decodeFields opc d reserved = .ok i) :
    reserved = 0 ∧ decodeOpcode opc d = some i := by
  unfold decodeFields at h
  split at h
  · split at h <;> cases h
    exact ⟨‹_›, ‹_›⟩
  · cases h

/-- The encoder writes the opcode that was read, with a `DATA8` that means the same (R301). -/
theorem encode_of_decodeOpcode {opc d : Byte} {i : Instr} (h : decodeOpcode opc d = some i) :
    ∃ d', encode i = some (.command (commandWord d' opc)) ∧ decodeOpcode opc d' = some i := by
  have hopc : opc = BitVec.ofNat 8 opc.toNat := by simp
  unfold decodeOpcode at h
  split at h <;> cases h
  all_goals
    rename_i hn
    rw [hn] at hopc
    subst hopc
    exact ⟨_, rfl, rfl⟩

/-! ### The frame -/

/-- A frame is read back to the instruction whose frame it is (R311). -/
theorem encode_of_decodeFrame {f : FrameWord} {i : Instr} (h : decodeFrame f = .ok i) : encode i = some (.frame f) := by
  unfold decodeFrame at h
  split_ifs at h with h0 h1 h2 h3 h4 h5 <;> cases h
  · rw [h0, encode]
  · rw [h1, encode]
  · rw [h2, encode]
  · rw [h3, encode]
  · rw [h4, encode]
  · rw [encode, ← h5]

/-! ### Both ways -/

/-- Settles O1: a word by its three fields, a frame by the order in which the decoder tries the six. -/
theorem decodeOfEncodeIsIdentity : Obligations.DecodeOfEncodeIsIdentity := by
  intro i hi
  cases i with
  | tick | refill => cases hi
  | nop | spiRecv | spiSetDiv | spiSelect | spiDeselect | sdInit | sdRead | i2cStart | i2cStop | pbStart | pbStop | clrFlags =>
    exact ⟨_, rfl, decodeCommand_commandWord 0 _⟩
  | spiXfer d | spiSend d | i2cWrite d | dacWrite d => exact ⟨_, rfl, decodeCommand_commandWord d _⟩
  | goIdleState | sendIfCond | appCmd | sendOpCond | readOcr => exact ⟨_, rfl, rfl⟩
  | readSingleBlock addr => exact ⟨_, rfl, Laws.TableRow.decodeFrame_readBlockFrame addr⟩

/-- Settles O2: an accepted word is its opcode and a `DATA8`, and the mask drops the latter. -/
theorem encodeOfDecodeKeepsTheWord : Obligations.EncodeOfDecodeKeepsTheWord := by
  refine ⟨fun w i h => ?_, fun f i h => encode_of_decodeFrame h⟩
  obtain ⟨hreserved, hopc⟩ := decodeFields_ok h
  obtain ⟨d, hencode, hback⟩ := encode_of_decodeOpcode hopc
  refine ⟨_, hencode, ?_, ?_⟩
  · rw [← commandWord_of_fields hreserved, commandWord_masked, opcOf_commandWord, commandWord_masked]
  · rw [decodeCommand_commandWord, decodeFields, if_pos rfl, hback]

/-- Settles O4: the decoder computes on each of the tables' words. -/
theorem tableWordsDecode : Obligations.TableWordsDecode := by
  unfold Obligations.TableWordsDecode
  decide

end Sys2Proof
end

section
/-! SD steps (R311, R450, R451, R465, R466): the step of each SD command is that of the operation that sends it; one step of a
read, for the command engine and for the producer alike. -/

namespace Sys2Proof.Machine

open Sys2Proof.Safety

/-! ### The initialization commands -/

section
variable {s : State} {c : Command}

theorem exec_initPos (p : InitPos) (s : State) : exec p.instr s = onInitWire p.instr s := by
  rcases p with ⟨ic, _⟩ | _ | _
  · cases ic <;> rfl
  all_goals rfl

theorem onInitWire_eq {p : InitPos} (hc : s.cur = some c) (hp : c.pos = .init p) (hready : taskReady s = true) :
    onInitWire p.instr s = .next (initStep p s) := by
  simp [onInitWire, hc, hp, hready]

/-- The table of R311 lists the bytes of the frames. -/
theorem initFrameBytes_eq (ic : InitCommand) : initFrameBytes ic = List.ofFn (frameByte ic.frame) := by
  cases ic with
  | goIdle | ifCond | readOcr => decide
  | appCmd _ => exact (by decide : initFrameBytes (.appCmd 0) = List.ofFn (frameByte appCmdFrame))
  | opCond _ => exact (by decide : initFrameBytes (.opCond 0) = List.ofFn (frameByte opCondFrame))

/-- The step of a frame byte: GO_IDLE_STATE selects the card before its first one (R450, R455). -/
theorem initStep_frameByte (ic : InitCommand) (k : Fin 6) (hc : s.cur = some c) :
    initStep (.command ic (.frame k)) s = { s with
      cs := if ic = .goIdle ∧ k = 0 then true else s.cs
      history := s.history ++ (if ic = .goIdle ∧ k = 0 then [.cs true] else []) ++
        [.spi (if ic = .goIdle ∧ k = 0 then true else s.cs) (frameByte ic.frame k) (cardAnswer s)]
      env := cardTaken s
      cur := some { c with pos := .init (.command ic (afterFrameByte k)) } } := by
  simp only [initStep, selectBefore]
  split
  · simp only [setPos, xfer_cur, selectCard_cur, hc, Option.map_some]
    rfl
  · simp only [setPos, xfer_cur, hc, Option.map_some, List.append_nil]
    rfl

end

/-- Settles O33: the step sends the byte that the table has at its position. -/
theorem initCommandsSendTheirFrames : Obligations.InitCommandsSendTheirFrames := by
  intro s c ic k hc hp hready
  refine ⟨frameByte ic.frame k, by rw [initFrameBytes_eq, List.getElem?_ofFn, dif_pos k.isLt], ?_⟩
  have hstep : exec ic.instr s = .next (initStep (.command ic (.frame k)) s) :=
    (exec_initPos (.command ic (.frame k)) s).trans (onInitWire_eq hc hp hready)
  rw [hstep, initStep_frameByte ic k hc, afterFrameByte]

/-! ### One read, by the command engine or by the producer -/

/-- Who runs a `read_partial` (R466): the command engine for the command `c`, or the producer for the half `h`. -/
inductive Reader where
  | command (c : Command)
  | producer (h : Half)

/-- The operation of which the read is a part. -/
def Reader.instr : Reader → Instr
  | .command _ => .sdRead
  | .producer _ => .refill

/-- The command, if it is one that reads. -/
def Reader.reads : Reader → Prop
  | .command c => c.instr = .ok .sdRead
  | .producer _ => True

def Reader.dest : Reader → Dest
  | .command _ => .scratch
  | .producer _ => .ring

def Reader.offset : Reader → Nat
  | .command c => c.offset
  | .producer h => halfOffset h

def Reader.length : Reader → Nat
  | .command c => c.length
  | .producer _ => halfSize

/-- `s` with the reader's sequencer at the read `r`. -/
def Reader.at (R : Reader) (r : ReadSeq) (s : State) : State :=
  match R with
  | .command c => { s with cur := some { c with pos := .read r } }
  | .producer h => { s with prod := .filling h r }

/-- The end of the read with a code (R466, R549). -/
def Reader.ends (R : Reader) (code : ResultCode) (s : State) : State :=
  match R with
  | .command _ => finish code s
  | .producer h => finishRefill h code s

/-- The transfer of the read at position `p` (R466). -/
def Reader.transfer (R : Reader) (addr : Word) (p : ReadPos) (s : State) : State :=
  readTransfer R.dest R.offset R.length addr p s

/-- One step of the read. -/
def Reader.step (R : Reader) (r : ReadSeq) (s : State) : State :=
  match readStep R.dest R.offset R.length r s with
  | (.go p, t) => R.at { r with pos := p } t
  | (.done code, t) => R.ends code t

section
variable {R : Reader} {s : State} {addr : Word} {p q : ReadPos} {code : ResultCode}

theorem Reader.step_go (h : readNext s.cfg p (cardAnswer s) = .go q) :
    R.step { addr := addr, pos := p } s = R.at { addr := addr, pos := q } (R.transfer addr p s) := by
  simp [Reader.step, readStep_eq, h, ReadNext.isDone, Reader.transfer]

theorem Reader.step_done (h : readNext s.cfg p (cardAnswer s) = .done code) :
    R.step { addr := addr, pos := p } s = R.ends code (selectCard false (R.transfer addr p s)) := by
  simp [Reader.step, readStep_eq, h, ReadNext.isDone, Reader.transfer]

/-! The step overwrites the sequencer's position, so that it is the same from any position that the state had there. -/

theorem Reader.transfer_at (r : ReadSeq) : R.transfer addr p (R.at r s) = R.at r (R.transfer addr p s) := by
  simp only [Reader.transfer, readTransfer_eq]
  cases R <;> rfl

theorem Reader.at_at (r r' : ReadSeq) : R.at r (R.at r' s) = R.at r s := by
  cases R <;> rfl

theorem Reader.ends_at (r : ReadSeq) : R.ends code (selectCard false (R.at r s)) = R.ends code (selectCard false s) := by
  cases R with
  | command c => rfl
  | producer h =>
    simp only [Reader.ends, finishRefill_eq]
    rfl

theorem Reader.step_at (r r' : ReadSeq) : R.step r (R.at r' s) = R.step r s := by
  have hcfg : (R.at r' s).cfg = s.cfg := by cases R <;> rfl
  have hanswer : cardAnswer (R.at r' s) = cardAnswer s := by cases R <;> rfl
  cases h : readNext s.cfg r.pos (cardAnswer s) with
  | go q => rw [step_go (hcfg ▸ hanswer ▸ h), step_go h, transfer_at, at_at]
  | done code => rw [step_done (hcfg ▸ hanswer ▸ h), step_done h, transfer_at, ends_at]

theorem Reader.taskReady_at (r : ReadSeq) : taskReady (R.at r s) = taskReady s := by
  cases R <;> rfl

end

/-! ### The model's steps are the reader's -/

section
variable {s : State} {c : Command} {r : ReadSeq} {h : Half}

theorem commandReadStep_eq (hc : s.cur = some c) : commandReadStep c r s = (Reader.command c).step r s := by
  cases hn : readNext s.cfg r.pos (cardAnswer s) with
  | go q =>
    rw [Reader.step_go hn, Reader.transfer, readTransfer_eq]
    simp only [commandReadStep, readStep_eq, hn, ReadNext.isDone, readTransfer_eq, setPos, hc]
    rfl
  | done code =>
    rw [Reader.step_done hn]
    simp only [commandReadStep, readStep_eq, hn, ReadNext.isDone]
    rfl

theorem producerReadStep_eq : producerReadStep h r s = (Reader.producer h).step r s := by
  unfold producerReadStep Reader.step
  rfl

theorem execSdRead_read (hc : s.cur = some c) (hi : c.instr = .ok .sdRead) (hp : c.pos = .read r)
    (hready : taskReady s = true) : exec .sdRead s = .next (commandReadStep c r s) := by
  simp only [exec, execSdRead, onCommand_eq hc hready hi, hp]

theorem execRefill_filling (hprod : s.prod = .filling h r) (hready : taskReady s = true) :
    exec .refill s = .next (producerReadStep h r s) := by
  simp only [exec, execRefill, hready, hprod, if_true]

theorem execReadSingleBlock_command (hturn : s.turn = .cmd) (hc : s.cur = some c) (hp : c.pos = .read r)
    (hready : taskReady s = true) : exec (.readSingleBlock r.addr) s = .next (commandReadStep c r s) := by
  simp only [exec, execReadSingleBlock, hready, hturn, commandReadBlock, hc, hp, if_true]

theorem execReadSingleBlock_producer (hturn : s.turn = .prod) (hprod : s.prod = .filling h r)
    (hready : taskReady s = true) : exec (.readSingleBlock r.addr) s = .next (producerReadStep h r s) := by
  simp only [exec, execReadSingleBlock, hready, hturn, producerReadBlock, hprod, if_true]

/-- The step of the reader's operation, run where its sequencer is at the read `r`. -/
theorem Reader.exec_at {R : Reader} (hR : R.reads) (hready : taskReady s = true) :
    exec R.instr (R.at r s) = .next (R.step r s) := by
  rw [← Reader.taskReady_at (R := R) r] at hready
  rw [← Reader.step_at r r]
  cases R with
  | command c =>
    exact (execSdRead_read (c := { c with pos := .read r }) rfl hR rfl hready).trans (congrArg Host.Outcome.next (commandReadStep_eq rfl))
  | producer h => exact (execRefill_filling rfl hready).trans (congrArg Host.Outcome.next producerReadStep_eq)

end

/-- Settles O43: an owner that is held refuses both, and else both run the step at its position. -/
theorem wireStepsAreTheStepsOfTheirOwners : Obligations.WireStepsAreTheStepsOfTheirOwners := by
  intro s c
  cases hready : taskReady s with
  | false =>
    have hnone : ∀ i, i ≠ .tick → exec i s = .refused .noStep := fun _ hi => exec_not_ready hi hready
    refine ⟨fun p _ _ _ => ?_, fun r _ _ _ _ => ?_, fun h r _ _ => ?_⟩
    · rw [exec_initPos, onInitWire_not_ready _ hready, hnone .sdInit nofun]
    · rw [hnone (.readSingleBlock r.addr) nofun, hnone .sdRead nofun]
    · rw [hnone (.readSingleBlock r.addr) nofun, hnone .refill nofun]
  | true =>
    refine ⟨fun p hc hi hp => ?_, fun r hturn hc hi hp => ?_, fun h r hturn hprod => ?_⟩
    · rw [exec_initPos, onInitWire_eq hc hp hready]
      simp only [exec, execSdInit, onCommand_eq hc hready hi, hp]
    · rw [execReadSingleBlock_command hturn hc hp hready, execSdRead_read hc hi hp hready]
    · rw [execReadSingleBlock_producer hturn hprod hready, execRefill_filling hprod hready]

/-! ### The frame of READ_SINGLE_BLOCK -/

/-- The table of R311 lists the bytes of the frame. -/
theorem readFrameBytes_eq (addr : Word) : readFrameBytes addr = List.ofFn (frameByte (readBlockFrame addr)) := by
  simp only [frameByte, readBlockFrame, sdFrame, List.ofFn_succ, List.ofFn_zero]
  simp (disch := decide) only [BitVec.extractLsb'_append_eq_of_le, BitVec.extractLsb'_append_eq_of_add_le]
  rfl

theorem readFrameBytes_getElem? (addr : Word) (k : Fin 6) :
    (readFrameBytes addr)[k.val]? = some (frameByte (readBlockFrame addr) k) := by
  rw [readFrameBytes_eq, List.getElem?_ofFn, dif_pos k.isLt]

theorem frameByte_readBlockFrame_zero (addr : Word) : frameByte (readBlockFrame addr) 0 = 0x51 :=
  (Option.some.inj (readFrameBytes_getElem? addr 0)).symm

/-- The step of a frame byte: the card is selected before the first one (R450, R466). -/
theorem Reader.step_frameByte (R : Reader) (addr : Word) (k : Fin 6) (s : State) :
    R.step { addr := addr, pos := .command (.frame k) } s =
      R.at { addr := addr, pos := .command (afterFrameByte k) } { s with
        cs := if k = 0 then true else s.cs
        history := s.history ++ (if k = 0 then [.cs true] else []) ++
          [.spi (if k = 0 then true else s.cs) (frameByte (readBlockFrame addr) k) (cardAnswer s)]
        env := cardTaken s } := by
  rw [Reader.step_go rfl, Reader.transfer, readTransfer_eq, List.append_assoc]
  rfl

/-- Settles O39: both agents' steps are the reader's at that byte. -/
theorem readCommandSendsItsFrame : Obligations.ReadCommandSendsItsFrame := by
  intro s addr k hready
  refine ⟨frameByte (readBlockFrame addr) k, readFrameBytes_getElem? addr k,
    fun c hturn hc hp => ?_, fun h hturn hprod => ?_⟩
  · rw [execReadSingleBlock_command hturn hc hp hready, commandReadStep_eq hc, Reader.step_frameByte]
    rfl
  · rw [execReadSingleBlock_producer hturn hprod hready, producerReadStep_eq, Reader.step_frameByte]
    rfl

/-! ### The decode step of SD_READ -/

theorem Card.ready_eq_true {k : Card} : k.ready = true ↔ k = .idleStandard ∨ k = .idleHighCapacity := by
  cases k <;> decide

theorem Card.ready_eq_false {k : Card} : k.ready = false ↔ k = .uninitialized ∨ k = .failed := by
  cases k <;> decide

section
variable {s : State} {c : Command}

theorem instr_sdRead_of_accepted (h : Accepted 0x11 c s) : c.instr = .ok .sdRead := by
  obtain ⟨-, hopc, hres, -, -⟩ := h
  exact Command.instr_eq hres (by rw [hopc]; rfl)

/-- The checks that follow arbitration (R465). -/
theorem execSdRead_accepted (h : Accepted 0x11 c s) (hfree : SpiFree s) :
    exec .sdRead s = .next (
      if 512 ≤ c.offset ∨ 512 < c.offset + c.length then finish .ioOffsetOutOfRange s
      else if s.card.ready then
        (Reader.command c).step { addr := wireAddr s.card c.block, pos := .command (.frame 0) } s
      else finish .errNotReady s) := by
  have hi := instr_sdRead_of_accepted h
  obtain ⟨hc, -, -, hp, hready⟩ := h
  have hbusy : spiBusy s = false := spiBusy_eq_false.2 hfree
  simp [exec, execSdRead, onCommand_eq hc hready hi, hp, sdReadDecode, unlessSpiBusy, hbusy, commandReadStep_eq hc,
    outOfRange, blockSize]

theorem execSdRead_outOfRange (h : Accepted 0x11 c s) (hfree : SpiFree s)
    (hout : 512 ≤ c.offset ∨ 512 < c.offset + c.length) : exec .sdRead s = .next (finish .ioOffsetOutOfRange s) := by
  rw [execSdRead_accepted h hfree, if_pos hout]

theorem execSdRead_notReady (h : Accepted 0x11 c s) (hfree : SpiFree s) (hoff : c.offset < 512)
    (hlen : c.offset + c.length ≤ 512) (hcard : s.card.ready = false) :
    exec .sdRead s = .next (finish .errNotReady s) := by
  rw [execSdRead_accepted h hfree, if_neg (by omega), if_neg (by simp [hcard])]

theorem execSdRead_starts (h : Accepted 0x11 c s) (hfree : SpiFree s) (hoff : c.offset < 512)
    (hlen : c.offset + c.length ≤ 512) (hcard : s.card.ready = true) :
    exec .sdRead s =
      .next ((Reader.command c).step { addr := wireAddr s.card c.block, pos := .command (.frame 0) } s) := by
  rw [execSdRead_accepted h hfree, if_neg (by omega), if_pos hcard]

end

/-- Settles O38: the checks in order, and the first frame byte. -/
theorem sdReadDecodeStep : Obligations.SdReadDecodeStep := by
  intro s c h hfree
  refine ⟨instr_sdRead_of_accepted h, execSdRead_outOfRange h hfree,
    fun hoff hlen hcard => execSdRead_notReady h hfree hoff hlen (Card.ready_eq_false.2 hcard), fun hoff hlen hcard => ?_⟩
  rw [execSdRead_starts h hfree hoff hlen (Card.ready_eq_true.2 hcard), Reader.step_frameByte,
    frameByte_readBlockFrame_zero, List.append_assoc]
  rfl

end Sys2Proof.Machine
end

section
/-! A whole read run alone (R466 to R471, R547 to R549): the frame, then one received byte a step, segment by segment, for the
command engine and for the producer alike. -/

namespace Sys2Proof.Machine

open Sys2Proof.Safety

/-! ### Runs of one operation -/

section
variable {i : Instr} {m n : Nat} {s t : State}

theorem runInstr_succ (h : exec i s = .next t) : runInstr i (n + 1) s = runInstr i n t := by
  simp only [runInstr, h]

theorem runInstr_add (h : runInstr i m s = .next t) : runInstr i (m + n) s = runInstr i n t := by
  induction m generalizing s with
  | zero =>
    cases h
    rw [Nat.zero_add]
  | succ m ih =>
    rw [Nat.succ_add_eq_add_succ, Nat.add_succ]
    simp only [runInstr] at h ⊢
    cases hs : exec i s with
    | next u =>
      rw [hs] at h
      exact ih h
    | fault f | refused r =>
      rw [hs] at h
      cases h

/-- A run of at least one step depends on the state through the first step alone. -/
theorem runInstr_congr (h : exec i s = exec i t) (hn : 0 < n) : runInstr i n s = runInstr i n t := by
  obtain ⟨m, rfl⟩ := Nat.exists_eq_succ_of_ne_zero hn.ne'
  simp only [runInstr, h]

end

/-! ### Answers of the card -/

/-- The card has answered one transfer for each of the events `es`, which the history records (R420). -/
def answered (es : List Event) (s : State) : State :=
  { s with
    history := s.history ++ es
    env := { s.env with cardIn := s.env.cardIn.drop es.length, cardCount := s.env.cardCount + es.length } }

/-- The events of receiving the bytes `bs` (R421). -/
def heard (cs : Bool) (bs : List Byte) : List Event := bs.map (.spi cs filler)

section
variable {s : State} {b : Byte} {bs bs' rest : List Byte} {e : Event} {es es' : List Event}

theorem cardAnswer_of_cons (h : s.env.cardIn = b :: rest) : cardAnswer s = b := by
  simp [cardAnswer, h]

theorem answered_nil : answered [] s = s := by
  simp [answered]

theorem answered_append : answered (es ++ es') s = answered es' (answered es s) := by
  simp [answered, Nat.add_assoc]

theorem answered_cons : answered (e :: es) s = answered es (answered [e] s) :=
  answered_append (es := [e])

theorem answered_cardIn (h : s.env.cardIn = bs ++ rest) (hlen : es.length = bs.length) :
    (answered es s).env.cardIn = rest := by
  simp [answered, h, hlen]

theorem answered_heard_cardIn {cs : Bool} (h : s.env.cardIn = bs ++ rest) :
    (answered (heard cs bs) s).env.cardIn = rest :=
  answered_cardIn h (List.length_map _)

theorem answered_single_cardIn (h : s.env.cardIn = b :: rest) : (answered [e] s).env.cardIn = rest :=
  answered_cardIn (bs := [b]) h rfl

theorem heard_append (cs : Bool) : heard cs (bs ++ bs') = heard cs bs ++ heard cs bs' := List.map_append

theorem xfer_eq (b : Byte) (s : State) : xfer b s = answered [.spi s.cs b (cardAnswer s)] s := by
  simp [xfer, record, takeCardAnswer, answered]

end

/-! ### Steps of a read -/

/-- The memory after the bytes of a block from index `k` on, of which those in range are stored (R466, R469). -/
def storeBytes (offset length : Nat) : Nat → List Byte → Memory → Memory
  | _, [], m => m
  | k, b :: bs, m =>
    storeBytes offset length (k + 1) bs (if offset ≤ k ∧ k < offset + length then writeByte m k b else m)

/-- The bytes of a block from index `k` on have been stored where the reader puts them. -/
def Reader.stored (R : Reader) (k : Nat) (bs : List Byte) (s : State) : State :=
  match R with
  | .command c => { s with scratch := storeBytes c.offset c.length k bs s.scratch }
  | .producer h => { s with ring := storeBytes (halfOffset h) halfSize k bs s.ring }

/-- The positions at which a read receives a byte that it does not store (R451, R466). -/
def listens : ReadPos → Bool
  | .command (.frame _) => false
  | .command (.poll _) => true
  | .token _ => true
  | .data _ => false
  | .check _ => true

section
variable {R : Reader} {s : State} {addr : Word} {n : Nat} {p q : ReadPos} {code : ResultCode}

theorem Reader.transfer_frame {k : Fin 6} (hk : k ≠ 0) :
    R.transfer addr (.command (.frame k)) s =
      answered [.spi s.cs (frameByte (readBlockFrame addr) k) (cardAnswer s)] s := by
  rw [Reader.transfer, readTransfer, if_neg hk, xfer_eq]

theorem Reader.transfer_firstByte :
    R.transfer addr (.command (.frame 0)) s = answered [.spi true 0x51 (cardAnswer s)] (selectCard true s) := by
  rw [Reader.transfer, readTransfer, if_pos rfl, xfer_eq, frameByte_readBlockFrame_zero]
  rfl

theorem Reader.transfer_listens (h : listens p = true) :
    R.transfer addr p s = answered [.spi s.cs filler (cardAnswer s)] s := by
  rw [← xfer_eq]
  rcases p with (_ | _) | _ | _ | _
  case command.frame | data => cases h
  all_goals rfl

theorem Reader.transfer_data (k : Fin 512) :
    R.transfer addr (.data k) s =
      R.stored k.val [cardAnswer s] (answered [.spi s.cs filler (cardAnswer s)] s) := by
  rw [← xfer_eq, Reader.transfer, readTransfer, storeInRange_eq]
  cases R <;> simp [Reader.dest, Reader.stored, storeBytes, Reader.offset, Reader.length, recv]

theorem Reader.run_go (hR : R.reads) (hready : taskReady s = true) (h : readNext s.cfg p (cardAnswer s) = .go q) :
    runInstr R.instr (n + 1) (R.at { addr := addr, pos := p } s) =
      runInstr R.instr n (R.at { addr := addr, pos := q } (R.transfer addr p s)) := by
  rw [runInstr_succ (Reader.exec_at hR hready), Reader.step_go h]

theorem Reader.run_done (hR : R.reads) (hready : taskReady s = true) (h : readNext s.cfg p (cardAnswer s) = .done code) :
    runInstr R.instr 1 (R.at { addr := addr, pos := p } s) =
      .next (R.ends code (selectCard false (R.transfer addr p s))) := by
  rw [runInstr_succ (Reader.exec_at hR hready), Reader.step_done h, runInstr]

end

/-! ### The frame -/

/-- The position of `sd_cmd` once `k` frame bytes have been sent (R450, R451). -/
def framePos (k : Nat) : SdPos := if h : k < 6 then .frame ⟨k, h⟩ else .poll 0

theorem framePos_of_lt {k : Nat} (h : k < 6) : framePos k = .frame ⟨k, h⟩ := dif_pos h

section
variable {R : Reader} {s : State} {addr : Word} {frame rest : List Byte}

/-- The frame bytes after the first one. -/
theorem Reader.run_frameTail (hR : R.reads) (hready : taskReady s = true) {k : Nat} (hk : 0 < k)
    (hlen : k + frame.length = 6) (hin : s.env.cardIn = frame ++ rest) :
    runInstr R.instr frame.length (R.at { addr := addr, pos := .command (framePos k) } s) =
      .next (R.at { addr := addr, pos := .command (.poll 0) }
        (answered (List.zipWith (.spi s.cs) ((readFrameBytes addr).drop k) frame) s)) := by
  induction frame generalizing k s with
  | nil =>
    obtain rfl : k = 6 := hlen
    rw [List.zipWith_nil_right, answered_nil]
    rfl
  | cons b bs ih =>
    rw [List.length_cons] at hlen ⊢
    have hk6 : k < 6 := by omega
    have htx : (readFrameBytes addr).drop k =
        frameByte (readBlockFrame addr) ⟨k, hk6⟩ :: (readFrameBytes addr).drop (k + 1) :=
      (List.drop_eq_getElem?_toList_append).trans (by rw [readFrameBytes_getElem? addr ⟨k, hk6⟩]; rfl)
    rw [framePos_of_lt hk6, Reader.run_go hR hready rfl, Reader.transfer_frame (Fin.ne_of_val_ne hk.ne'),
      cardAnswer_of_cons hin, htx, List.zipWith_cons_cons,
      answered_cons (es := List.zipWith _ _ bs)]
    exact ih (s := answered _ s) (k := k + 1) hready (Nat.succ_pos k) (by omega) (answered_single_cardIn hin)

/-- The card has been selected and has answered the frame bytes (R450, R466). -/
def framed (addr : Word) (frame : List Byte) (s : State) : State :=
  answered (List.zipWith (.spi true) (readFrameBytes addr) frame) (selectCard true s)

theorem zipWith_readFrameBytes_length (hlen : frame.length = 6) :
    (List.zipWith (Event.spi true) (readFrameBytes addr) frame).length = frame.length := by
  simp [readFrameBytes, hlen]

theorem framed_cardIn (hlen : frame.length = 6) (hin : s.env.cardIn = frame ++ rest) :
    (framed addr frame s).env.cardIn = rest :=
  answered_cardIn (s := selectCard true s) hin (zipWith_readFrameBytes_length hlen)

/-- The first segment of a read: the step of the first byte selects the card too. -/
theorem Reader.run_frame (hR : R.reads) (hready : taskReady s = true) (hlen : frame.length = 6)
    (hin : s.env.cardIn = frame ++ rest) :
    runInstr R.instr 6 (R.at { addr := addr, pos := .command (.frame 0) } s) =
      .next (R.at { addr := addr, pos := .command (.poll 0) } (framed addr frame s)) := by
  obtain ⟨b, bs, rfl⟩ := List.exists_cons_of_length_eq_add_one hlen
  obtain hlen : bs.length = 5 := Nat.succ.inj hlen
  have htail := Reader.run_frameTail (s := answered [.spi true 0x51 b] (selectCard true s)) (k := 1) (addr := addr) hR hready
    Nat.one_pos (by omega) (answered_single_cardIn hin)
  rw [hlen] at htail
  rw [Reader.run_go hR hready rfl, Reader.transfer_firstByte, cardAnswer_of_cons hin, framed, readFrameBytes, List.zipWith_cons_cons,
    answered_cons (es := List.zipWith _ _ bs)]
  exact htail

end

/-! ### Bytes that are received and not stored -/

/-- The read goes from `p` to `q` by receiving the bytes `bs`, none of which it stores. -/
inductive Listens (cfg : Params) : ReadPos → List Byte → ReadPos → Prop
  | nil (p : ReadPos) : Listens cfg p [] p
  | cons {p q q' : ReadPos} {b : Byte} {bs : List Byte} : listens p = true → readNext cfg p b = .go q →
      Listens cfg q bs q' → Listens cfg p (b :: bs) q'

section
variable {cfg : Params} {p q q' : ReadPos} {b : Byte} {bs bs' : List Byte}

theorem Listens.append (h : Listens cfg p bs q) (h' : Listens cfg q bs' q') : Listens cfg p (bs ++ bs') q' := by
  induction h with
  | nil p => exact h'
  | cons hp hb _ ih => exact .cons hp hb (ih h')

theorem Listens.single (hp : listens p = true) (hb : readNext cfg p b = .go q) : Listens cfg p [b] q :=
  .cons hp hb (.nil q)

theorem listens_r1Misses_from {n : Nat} (hlen : n + bs.length < cfg.r1PollLimit) (hbs : ∀ b ∈ bs, b.getLsbD 7 = true) :
    Listens cfg (.command (.poll n)) bs (.command (.poll (n + bs.length))) := by
  induction bs generalizing n with
  | nil => exact .nil _
  | cons b bs ih =>
    obtain ⟨hb, hbs⟩ := List.forall_mem_cons.1 hbs
    rw [List.length_cons] at hlen ⊢
    have hmore : pollEnds cfg n b = false := by simp [pollEnds, isResponse, hb]; omega
    refine .cons (q := .command (.poll (n + 1))) rfl (by simp [readNext, hmore]) ?_
    rw [Nat.add_comm bs.length, ← Nat.add_assoc]
    exact ih (by omega) hbs

theorem listens_tokenMisses_from {n : Nat} (hlen : n + bs.length < cfg.tokenPollLimit) (hbs : ∀ b ∈ bs, b ≠ 0xFE) :
    Listens cfg (.token n) bs (.token (n + bs.length)) := by
  induction bs generalizing n with
  | nil => exact .nil _
  | cons b bs ih =>
    obtain ⟨hb, hbs⟩ := List.forall_mem_cons.1 hbs
    rw [List.length_cons] at hlen ⊢
    have hmore : ¬ cfg.tokenPollLimit ≤ n + 1 := by omega
    refine .cons (q := .token (n + 1)) rfl (by rw [readNext, dataToken, if_neg hb, if_neg hmore]) ?_
    rw [Nat.add_comm bs.length, ← Nat.add_assoc]
    exact ih (by omega) hbs

/-- A poll without a response (R451). -/
theorem listens_r1Misses (h : PollGoesOn cfg bs) :
    Listens cfg (.command (.poll 0)) bs (.command (.poll bs.length)) := by
  obtain ⟨hlen, hbs⟩ := h
  simpa using listens_r1Misses_from (n := 0) (by omega) hbs

theorem listens_r1Poll (h : PollGoesOn cfg bs) : Listens cfg (.command (.poll 0)) (pollAnswers bs 0x00) (.token 0) := by
  refine (listens_r1Misses h).append (.single rfl ?_)
  simp [readNext, pollEnds, isResponse, r1Ready]

/-- A poll without a token (R466, R470). -/
theorem listens_tokenMisses (hlen : bs.length < cfg.tokenPollLimit) (hbs : ∀ b ∈ bs, b ≠ 0xFE) :
    Listens cfg (.token 0) bs (.token bs.length) := by
  simpa using listens_tokenMisses_from (n := 0) (by omega) hbs

theorem listens_tokenPoll (h : TokenPollGoesOn cfg bs) : Listens cfg (.token 0) (bs ++ [0xFE]) (.data 0) := by
  obtain ⟨hlen, hbs⟩ := h
  exact (listens_tokenMisses hlen hbs).append (.single rfl rfl)

end

section
variable {R : Reader} {s : State} {addr : Word} {p q : ReadPos} {b : Byte} {bs rest : List Byte} {code : ResultCode}

theorem Reader.run_listens (hR : R.reads) (hready : taskReady s = true) (h : Listens s.cfg p bs q)
    (hin : s.env.cardIn = bs ++ rest) :
    runInstr R.instr bs.length (R.at { addr := addr, pos := p } s) =
      .next (R.at { addr := addr, pos := q } (answered (heard s.cs bs) s)) := by
  generalize hcfg : s.cfg = cfg at h
  induction h generalizing s with
  | nil p =>
    rw [heard, List.map_nil, answered_nil]
    rfl
  | @cons p q q' b bs hp hb _ ih =>
    subst hcfg
    have hanswer := cardAnswer_of_cons hin
    rw [List.length_cons, Reader.run_go hR hready (hanswer.symm ▸ hb), Reader.transfer_listens hp, hanswer, heard,
      List.map_cons, answered_cons (es := List.map _ bs)]
    exact ih (s := answered _ s) hready (answered_single_cardIn hin) rfl

/-- The bytes that a read receives before its last one, and that one, which ends it (R466, R470, R471). -/
theorem Reader.run_listens_done (hR : R.reads) (hready : taskReady s = true) (h : Listens s.cfg p bs q)
    (hq : listens q = true) (hb : readNext s.cfg q b = .done code) (hin : s.env.cardIn = bs ++ [b] ++ rest) :
    runInstr R.instr (bs ++ [b]).length (R.at { addr := addr, pos := p } s) =
      .next (R.ends code (selectCard false (answered (heard s.cs (bs ++ [b])) s))) := by
  rw [List.append_assoc] at hin
  have hanswer := cardAnswer_of_cons (answered_heard_cardIn (cs := s.cs) hin)
  rw [List.length_append, runInstr_add (Reader.run_listens hR hready h hin), heard_append, answered_append]
  refine (Reader.run_done (s := answered (heard s.cs bs) s) hR hready (hanswer.symm ▸ hb)).trans ?_
  rw [Reader.transfer_listens hq, hanswer]
  rfl

end

/-! ### The bytes of the block -/

/-- The position of a read once it has received `k` data bytes (R466). -/
def dataPos (k : Nat) : ReadPos := if h : k < 512 then .data ⟨k, h⟩ else .check 0

theorem dataPos_of_lt {k : Nat} (h : k < 512) : dataPos k = .data ⟨k, h⟩ := dif_pos h

theorem readNext_data (cfg : Params) (k : Fin 512) (b : Byte) : readNext cfg (.data k) b = .go (dataPos (k.val + 1)) := by
  simp only [readNext, dataPos]
  split <;> rfl

section
variable {R : Reader} {s : State} {addr : Word} {b : Byte} {bs rest : List Byte} {es : List Event}

theorem Reader.stored_cons (k : Nat) : R.stored k (b :: bs) s = R.stored (k + 1) bs (R.stored k [b] s) := by
  cases R <;> rfl

theorem Reader.stored_answered (k : Nat) : R.stored k bs (answered es s) = answered es (R.stored k bs s) := by
  cases R <;> rfl

theorem Reader.taskReady_stored (k : Nat) : taskReady (R.stored k bs s) = taskReady s := by
  cases R <;> rfl

theorem Reader.stored_cs (k : Nat) : (R.stored k bs s).cs = s.cs := by
  cases R <;> rfl

theorem Reader.stored_env (k : Nat) : (R.stored k bs s).env = s.env := by
  cases R <;> rfl

theorem Reader.run_data (hR : R.reads) (hready : taskReady s = true) {k : Nat} (hlen : k + bs.length = 512)
    (hin : s.env.cardIn = bs ++ rest) :
    runInstr R.instr bs.length (R.at { addr := addr, pos := dataPos k } s) =
      .next (R.at { addr := addr, pos := .check 0 } (R.stored k bs (answered (heard s.cs bs) s))) := by
  induction bs generalizing k s with
  | nil =>
    obtain rfl : k = 512 := hlen
    rw [heard, List.map_nil, answered_nil]
    cases R <;> rfl
  | cons b bs ih =>
    rw [List.length_cons] at hlen ⊢
    have hk : k < 512 := by omega
    have hrest : (R.stored k [b] (answered [.spi s.cs filler b] s)).env.cardIn = bs ++ rest :=
      (congrArg Env.cardIn (Reader.stored_env k)).trans (answered_single_cardIn hin)
    rw [dataPos_of_lt hk, Reader.run_go hR hready (readNext_data _ _ _), Reader.transfer_data, cardAnswer_of_cons hin]
    refine (ih (s := R.stored k [b] (answered [.spi s.cs filler b] s)) (k := k + 1) ((Reader.taskReady_stored k).trans hready) (by omega) hrest).trans ?_
    rw [Reader.stored_cs, ← Reader.stored_answered, ← Reader.stored_cons, heard, heard, List.map_cons,
      answered_cons (es := List.map _ bs)]
    rfl

/-- The bytes of the block and its two check bytes, the last of which ends the read (R466 to R468). -/
theorem Reader.run_block {check : List Byte} (hR : R.reads) (hready : taskReady s = true) (hlen : bs.length = 512)
    (hcheck : check.length = 2) (hin : s.env.cardIn = bs ++ (check ++ rest)) :
    runInstr R.instr (bs.length + check.length) (R.at { addr := addr, pos := .data 0 } s) =
      .next (R.ends .ok (R.stored 0 bs (selectCard false (answered (heard s.cs (bs ++ check)) s)))) := by
  obtain ⟨c₀, c₁, rfl⟩ := List.length_eq_two.1 hcheck
  have hrest : (R.stored 0 bs (answered (heard s.cs bs) s)).env.cardIn = [c₀] ++ [c₁] ++ rest :=
    (congrArg Env.cardIn (Reader.stored_env 0)).trans (answered_heard_cardIn hin)
  have hrun := Reader.run_data (k := 0) (addr := addr) hR hready (by omega) hin
  refine (runInstr_add hrun).trans ((Reader.run_listens_done (s := R.stored 0 bs (answered (heard s.cs bs) s)) hR
    ((Reader.taskReady_stored 0).trans hready) (.single rfl rfl) rfl rfl hrest).trans ?_)
  rw [Reader.stored_cs, ← Reader.stored_answered, heard_append (bs := bs), answered_append (es := heard s.cs bs)]
  cases R <;> rfl

end

/-! ### The whole read -/

/-- The state when a read is over but for the end of its operation: the card selected, the frame sent, the bytes received, the card
deselected (R466). -/
def readOver (addr : Word) (frame received : List Byte) (s : State) : State :=
  selectCard false (answered (heard true received) (framed addr frame s))

section
variable {R : Reader} {s : State} {addr : Word} {p q : ReadPos} {b : Byte} {frame bs rest : List Byte} {code : ResultCode}

theorem readOver_eq (hlen : frame.length = 6) (hin : s.env.cardIn = frame ++ bs ++ rest) :
    readOver addr frame bs s = { s with
      cs := false
      history := s.history ++ readEvents addr frame bs
      env := { s.env with cardIn := rest, cardCount := s.env.cardCount + (6 + bs.length) } } := by
  have hzip := zipWith_readFrameBytes_length (addr := addr) hlen
  simp [readOver, framed, answered, heard, readEvents, selectCard, record, hzip, hlen, hin, filler, Nat.add_assoc]

/-- A read that ends by a byte that it does not store and before the block (R470, R471). -/
theorem Reader.run_error (hR : R.reads) (hready : taskReady s = true) (hlen : frame.length = 6)
    (h : Listens s.cfg (.command (.poll 0)) bs q) (hq : listens q = true) (hb : readNext s.cfg q b = .done code)
    (hin : s.env.cardIn = frame ++ (bs ++ [b]) ++ rest) :
    runInstr R.instr (6 + (bs ++ [b]).length) (R.at { addr := addr, pos := .command (.frame 0) } s) =
      .next (R.ends code (readOver addr frame (bs ++ [b]) s)) := by
  rw [List.append_assoc] at hin
  rw [runInstr_add (Reader.run_frame hR hready hlen hin)]
  exact Reader.run_listens_done hR hready h hq hb (framed_cardIn hlen hin)

/-- The bytes a successful read receives after its frame, and how many transfers that makes in all (R467). -/
theorem readAnswers_received {r1Misses tokenMisses block check : List Byte} (hblock : block.length = 512)
    (hcheck : check.length = 2) :
    readAnswers frame r1Misses tokenMisses block check =
        frame ++ (pollAnswers r1Misses 0x00 ++ (tokenMisses ++ [0xFE]) ++ block ++ check) ∧
      6 + (pollAnswers r1Misses 0x00 ++ (tokenMisses ++ [0xFE]) ++ block ++ check).length =
        6 + (r1Misses.length + 1) + (tokenMisses.length + 1) + 514 := by
  constructor
  · simp only [readAnswers, List.append_assoc]
  · simp only [hblock, hcheck, pollAnswers, List.length_append, List.length_singleton]
    omega

/-- A read that succeeds (R466 to R468). -/
theorem Reader.run_success {r1Misses tokenMisses block check : List Byte} (hR : R.reads) (hready : taskReady s = true)
    (hlen : frame.length = 6) (hr1 : PollGoesOn s.cfg r1Misses) (htoken : TokenPollGoesOn s.cfg tokenMisses)
    (hblock : block.length = 512) (hcheck : check.length = 2)
    (hin : s.env.cardIn = readAnswers frame r1Misses tokenMisses block check ++ rest) :
    runInstr R.instr (6 + (r1Misses.length + 1) + (tokenMisses.length + 1) + 514)
        (R.at { addr := addr, pos := .command (.frame 0) } s) =
      .next (R.ends .ok (R.stored 0 block { s with
        cs := false
        history := s.history ++
          readEvents addr frame (pollAnswers r1Misses 0x00 ++ (tokenMisses ++ [0xFE]) ++ block ++ check)
        env := { s.env with
          cardIn := rest
          cardCount := s.env.cardCount + (6 + (r1Misses.length + 1) + (tokenMisses.length + 1) + 514) } })) := by
  obtain ⟨hanswers, hn⟩ := readAnswers_received (frame := frame) (r1Misses := r1Misses) (tokenMisses := tokenMisses)
    hblock hcheck
  rw [hanswers] at hin
  rw [← hn, ← readOver_eq hlen hin]
  generalize hpolls : pollAnswers r1Misses 0x00 ++ (tokenMisses ++ [0xFE]) = polls
  have hlisten : Listens s.cfg (.command (.poll 0)) polls (.data 0) :=
    hpolls ▸ (listens_r1Poll hr1).append (listens_tokenPoll htoken)
  rw [hpolls, List.append_assoc polls, List.append_assoc, List.append_assoc, List.append_assoc] at hin
  have hin₁ := framed_cardIn (addr := addr) hlen hin
  rw [List.append_assoc polls, List.length_append, List.length_append, runInstr_add (Reader.run_frame hR hready hlen hin),
    runInstr_add (Reader.run_listens (s := framed addr frame s) hR hready hlisten hin₁)]
  refine (Reader.run_block (s := answered (heard true polls) (framed addr frame s)) hR hready hblock hcheck
    (answered_heard_cardIn hin₁)).trans ?_
  rw [readOver, heard_append (bs := polls), answered_append (es := heard true polls)]
  rfl

end

/-! ### What a read stores -/

/-- A read stores every byte in range at its own index, and nothing else (R466, R469). -/
theorem readByte_storeBytes {offset length : Nat} (k : Nat) (bs : List Byte) {m : Memory} (hm : memoryWf m = true) (a : Nat) :
    readByte (storeBytes offset length k bs m) a =
      if (offset ≤ a ∧ a < offset + length) ∧ k ≤ a ∧ a < k + bs.length then bs.getD (a - k) 0 else readByte m a := by
  induction bs generalizing k m with
  | nil => rw [storeBytes, if_neg (by simp only [List.length_nil]; omega)]
  | cons b bs ih =>
    have hm' : memoryWf (if offset ≤ k ∧ k < offset + length then writeByte m k b else m) = true := by
      split
      exacts [memoryWf_writeByte k b hm, hm]
    have hread : readByte (if offset ≤ k ∧ k < offset + length then writeByte m k b else m) a =
        if (offset ≤ k ∧ k < offset + length) ∧ a = k then b else readByte m a := by
      split
      · simp_all [readByte_writeByte]
      · simp_all
    rw [storeBytes, ih (k + 1) hm', hread, List.length_cons]
    rcases Nat.lt_trichotomy a k with hlt | rfl | hgt
    · rw [if_neg (by omega), if_neg (by omega), if_neg (by omega)]
    · rw [if_neg (by omega), Nat.sub_self, List.getD_cons_zero]
      exact if_congr (by omega) rfl rfl
    · obtain ⟨j, rfl⟩ := Nat.exists_eq_add_of_lt hgt
      rw [if_neg (c := _ ∧ _ = k) (by omega), show k + j + 1 - k = j + 1 by omega, show k + j + 1 - (k + 1) = j by omega, List.getD_cons_succ]
      exact if_congr (by omega) rfl rfl

/-! ### SD_READ -/

section
variable {s : State} {c : Command} {n : Nat} {frame bs rest : List Byte} {q : ReadPos} {b : Byte} {code : ResultCode}

theorem taskReady_of_accepted {opc : Byte} (h : Accepted opc c s) : taskReady s = true := by
  obtain ⟨-, -, -, -, hready⟩ := h
  exact hready

/-- The decode step of an SD_READ that starts is the step of its read's first byte (R465). -/
theorem runInstr_sdRead_starts (h : Accepted 0x11 c s) (hfree : SpiFree s) (hcard : s.card.ready = true)
    (hoff : c.offset < 512) (hlen : c.offset + c.length ≤ 512) (hn : 0 < n) :
    runInstr .sdRead n s = runInstr .sdRead n
      ((Reader.command c).at { addr := wireAddr s.card c.block, pos := .command (.frame 0) } s) := by
  refine runInstr_congr ?_ hn
  rw [execSdRead_starts h hfree hoff hlen hcard]
  exact (Reader.exec_at (R := .command c) (instr_sdRead_of_accepted h) (taskReady_of_accepted h)).symm

theorem runInstr_sdRead_error (h : Accepted 0x11 c s) (hfree : SpiFree s) (hcard : s.card.ready = true)
    (hoff : c.offset < 512) (hlen : c.offset + c.length ≤ 512) (hframe : frame.length = 6)
    (hbs : Listens s.cfg (.command (.poll 0)) bs q) (hq : listens q = true) (hb : readNext s.cfg q b = .done code)
    (hin : s.env.cardIn = frame ++ (bs ++ [b]) ++ rest) :
    runInstr .sdRead (6 + (bs.length + 1)) s = .next { s with
      history := s.history ++ readEvents (wireAddr s.card c.block) frame (bs ++ [b])
      env := { s.env with cardIn := rest, cardCount := s.env.cardCount + (6 + (bs.length + 1)) }
      cs := false, result := code, busy := false, cur := none } := by
  have hrun := Reader.run_error (R := .command c) (addr := wireAddr s.card c.block) (instr_sdRead_of_accepted h)
    (taskReady_of_accepted h) hframe hbs hq hb hin
  rw [readOver_eq hframe hin, List.length_append] at hrun
  exact (runInstr_sdRead_starts h hfree hcard hoff hlen (by omega)).trans hrun

end

/-- Settles O41: the run of a read that succeeds, from the decode step on. -/
theorem sdReadCopiesTheRange : Obligations.SdReadCopiesTheRange := by
  intro s c frame r1Misses tokenMisses block check rest h hfree hcard hform hoff hlen hframe hr1 htoken hblock hcheck hin
  have hrun := Reader.run_success (R := .command c) (addr := wireAddr s.card c.block) (instr_sdRead_of_accepted h)
    (taskReady_of_accepted h) hframe hr1 htoken hblock hcheck hin
  refine ⟨_, (runInstr_sdRead_starts h hfree hcard hoff hlen (by omega)).trans hrun, fun a => ?_, rfl⟩
  refine (readByte_storeBytes 0 block hform a).trans (if_congr ?_ rfl rfl)
  omega

/-- Settles O42: the run of a read that ends before the block, by its response or by the last byte without a token. -/
theorem sdReadErrorsLeaveTheDestination : Obligations.SdReadErrorsLeaveTheDestination := by
  intro s c frame misses rest h hfree hcard hoff hlen hframe hmisses
  refine ⟨fun r hr hne hin => ?_, fun tokens htokens hpos hnone hin => ?_⟩
  · have hends : pollEnds s.cfg misses.length r = true := by
      rw [pollEnds, isResponse, Bool.or_eq_true, Bool.not_eq_true', decide_eq_true_eq]
      exact hr.imp_right Eq.ge
    have hrejected : readNext s.cfg (.command (.poll misses.length)) r = .done .ioCommandRejected := by
      rw [readNext, if_pos hends, if_neg (c := r = r1Ready) hne]
    exact runInstr_sdRead_error h hfree hcard hoff hlen hframe (listens_r1Misses hmisses) rfl hrejected hin
  · obtain rfl | ⟨init, last, rfl⟩ := List.eq_nil_or_concat' tokens
    · rw [List.length_nil] at htokens
      omega
    · obtain ⟨hinit, hlast⟩ := List.forall_mem_append.1 hnone
      rw [List.length_append, List.length_singleton] at htokens
      have hpolls := (listens_r1Poll hmisses).append (listens_tokenMisses (by omega) hinit)
      have htimeout : readNext s.cfg (.token init.length) last = .done .ioDataTokenTimeout := by
        rw [readNext, if_neg (c := last = dataToken) (hlast last (List.mem_singleton_self last)), if_pos htokens.ge]
      have hcount : 6 + (misses.length + 1) + s.cfg.tokenPollLimit =
          6 + ((pollAnswers misses 0x00 ++ init).length + 1) := by
        rw [pollAnswers, List.length_append, List.length_append, List.length_singleton]
        omega
      rw [hcount, ← List.append_assoc]
      exact runInstr_sdRead_error h hfree hcard hoff hlen hframe hpolls rfl htimeout (by simpa using hin)

/-! ### REFILL -/

/-- The producer has taken the signal and the request (R546, R547). -/
def signalTaken (s : State) : State := { s with sem := s.sem - 1, pending := none }

section
variable {s : State} {h : Half} {n : Nat}

theorem execRefill_starts (hprod : s.prod = .waiting) (hsem : 0 < s.sem) (hpending : s.pending = some h)
    (hready : taskReady s = true) (hspi : spiRunning s = false) (hcard : s.card.ready = true) :
    exec .refill s = .next ((Reader.producer h).step
      { addr := wireAddr s.card (refillBlock s.cfg s.cursor), pos := .command (.frame 0) }
      (signalTaken s)) := by
  simp only [exec, execRefill, hready, hprod, hsem, hspi, refillWake, hpending, hcard, producerReadStep_eq, and_self, if_true]
  rfl

/-- The wake step of a fill that starts is the step of its read's first byte, with the signal taken (R546, R547). -/
theorem runInstr_refill_starts (hprod : s.prod = .waiting) (hsem : 0 < s.sem) (hpending : s.pending = some h)
    (hready : taskReady s = true) (hspi : spiRunning s = false) (hcard : s.card.ready = true) (hn : 0 < n) :
    runInstr .refill n s = runInstr .refill n ((Reader.producer h).at
      { addr := wireAddr s.card (refillBlock s.cfg s.cursor), pos := .command (.frame 0) }
      (signalTaken s)) := by
  refine runInstr_congr ?_ hn
  rw [execRefill_starts hprod hsem hpending hready hspi hcard]
  exact (Reader.exec_at (R := .producer h) (s := signalTaken s) trivial hready).symm

end

/-- The range of a fill is its half (R547). -/
theorem in_half_iff {h : Half} {a : Nat} :
    (halfOffset h ≤ a ∧ a < halfOffset h + halfSize) ↔ halfOf a = h ∧ a < 400 := by
  by_cases ha : a < 200 <;> cases h <;> simp [halfOffset, halfSize, halfOf, ha]
  all_goals omega

theorem refillBlock_eq (p : Params) (cursor : Word) :
    refillBlock p cursor = BitVec.ofNat 32 (p.startBlock.toNat + cursor.toNat) := by
  rw [refillBlock, BitVec.add_def]

/-- Settles O58: the wake of the producer and the run of a read that succeeds. -/
theorem refillFillsItsHalf : Obligations.RefillFillsItsHalf := by
  intro s h frame r1Misses tokenMisses block check rest hprod hsem hpending hready hspi hcard hform hframe hr1 htoken
    hblock hcheck hin
  rw [← refillBlock_eq]
  have hrun := Reader.run_success (R := .producer h) (s := signalTaken s)
    (addr := wireAddr s.card (refillBlock s.cfg s.cursor)) trivial hready hframe hr1 htoken hblock hcheck hin
  have hread : ∀ a, readByte (storeBytes (halfOffset h) halfSize 0 block s.ring) a =
      if halfOf a = h ∧ a < 400 then block.getD a 0 else readByte s.ring a := fun a => by
    refine (readByte_storeBytes 0 block hform a).trans (if_congr ?_ rfl rfl)
    rw [in_half_iff, hblock]
    exact and_iff_left_of_imp fun ⟨_, hlt⟩ => ⟨Nat.zero_le a, by omega⟩
  refine ⟨_, (runInstr_refill_starts hprod hsem hpending hready hspi hcard (by omega)).trans hrun, ?_, ?_, ?_⟩ <;>
    rw [Reader.ends, finishRefill_eq]
  · exact fun a ha => (hread a).trans (if_congr (by simp [ha]) rfl rfl)
  · exact fun a ha => (hread a).trans (if_neg fun ⟨_, hlt⟩ => absurd hlt (not_lt.2 ha))
  · cases h <;> simp [Reader.stored, signalTaken, hprod, nextCursor]

end Sys2Proof.Machine
end

section
/-! Whole ticks (R536 to R541): the source's tick, the handler's entry, the six completions of its frame and its exit; what one tick
emits and signals, and so what `n` do. -/

namespace Sys2Proof.Machine

open Sys2Proof.Safety

/-! ### Primitives that complete -/

section
variable {m n : Nat} {s t : State}

/-- The first answers of an oracle that lets `n` primitives complete (R500). -/
theorem exists_acks (h : I2cCompletes n s) :
    ∃ acks : List Bool, acks.length = n ∧ s.env.i2cIn = acks.map .completes ++ s.env.i2cIn.drop n := by
  obtain ⟨hlen, hall⟩ := h
  have hacks : s.env.i2cIn.take n ∈ Set.range (List.map I2cAnswer.completes) := by
    rw [Set.range_list_map]
    intro a ha
    cases a with
    | completes ack => exact ⟨ack, rfl⟩
    | never => exact absurd rfl (hall _ ha)
  obtain ⟨acks, hacks⟩ := hacks
  refine ⟨acks, ?_, by rw [hacks, List.take_append_drop]⟩
  rw [← List.length_map (f := I2cAnswer.completes), hacks, List.length_take_of_le hlen]

theorem i2cCompletes_add (h : I2cCompletes (m + n) s) :
    I2cCompletes m s ∧ ∀ t : State, t.env.i2cIn = s.env.i2cIn.drop m → I2cCompletes n t := by
  obtain ⟨hlen, hall⟩ := h
  rw [List.take_add, List.forall_mem_append] at hall
  obtain ⟨hfirst, hrest⟩ := hall
  refine ⟨⟨by omega, hfirst⟩, fun t ht => ⟨?_, ht ▸ hrest⟩⟩
  rw [ht, List.length_drop]
  omega

end

/-! ### One whole tick, step by step -/

/-- A primitive of the handler's frame has completed (R500, R537). -/
def primDone (prim : I2cPrim) (ack : Bool) (s : State) : State :=
  { s with
    hpos := s.hpos + 1
    i2cOpen := openAfter prim s.i2cOpen
    history := s.history ++ [primEvent prim ack]
    env := (takeI2cAnswer s).env }

/-- The primitives `prims`, which end the handler's frame, have completed with `acks` (R500, R537). -/
def frameDone (prims : List I2cPrim) (acks : List Bool) (s : State) : State :=
  { s with
    hpos := 6
    i2cOpen := false
    history := s.history ++ List.zipWith primEvent prims acks
    env := { s.env with i2cIn := s.env.i2cIn.drop acks.length, i2cCount := s.env.i2cCount + acks.length } }

section
variable {s : State} {prim : I2cPrim} {prims : List I2cPrim} {ack : Bool} {acks : List Bool} {rest : List I2cAnswer}

theorem i2cAnswer_of_cons (h : s.env.i2cIn = .completes ack :: rest) : i2cAnswer s = .completes ack := by
  rw [i2cAnswer, h]

theorem execTick_prim (hin : s.inHandler = true) (hprim : (dacFrame s.cfg s.hsample)[s.hpos.val]? = some prim)
    (hack : i2cAnswer s = .completes ack) :
    exec .tick s =
      .next (if s.hpos.val = 5 then exitHandler (primDone prim ack s) else primDone prim ack s) := by
  have hlast : s.hpos + 1 = 6 ↔ s.hpos.val = 5 := by omega
  simp only [exec, execTick, hin, if_true, handlerStep, hprim, i2cStep, hack, handlerAdvance, completePrim_eq]
  exact congrArg Host.Outcome.next (if_congr hlast rfl rfl)

theorem frameDone_cons :
    frameDone prims acks (primDone prim ack s) = frameDone (prim :: prims) (ack :: acks) s := by
  simp [frameDone, primDone, Nat.add_assoc, Nat.add_comm 1]

theorem primDone_stop (hpos : s.hpos.val = 5) : primDone .stop ack s = frameDone [.stop] [ack] s := by
  have hlast : s.hpos + 1 = 6 := by omega
  simp [primDone, frameDone, hlast, openAfter]

/-- The completions of the handler's frame from primitive `k` on (R537, R538). -/
theorem runInstr_tick_frameTail {k : Nat} (hk : k < 6) (hlen : k + acks.length = 6) (hin : s.inHandler = true)
    (hpos : s.hpos.val = k) (hacks : s.env.i2cIn = acks.map .completes ++ rest) :
    runInstr .tick acks.length s = .next (exitHandler (frameDone ((dacFrame s.cfg s.hsample).drop k) acks s)) := by
  induction acks generalizing k s with
  | nil =>
    rw [List.length_nil] at hlen
    omega
  | cons ack acks ih =>
    rw [List.length_cons] at hlen ⊢
    have hdrop := List.drop_eq_getElem_cons (l := dacFrame s.cfg s.hsample) hk
    have hprim : (dacFrame s.cfg s.hsample)[s.hpos.val]? = some (dacFrame s.cfg s.hsample)[k] := by
      rw [hpos]
      exact List.getElem?_eq_getElem hk
    rw [runInstr_succ (execTick_prim hin hprim (i2cAnswer_of_cons hacks)), hpos]
    obtain rfl | hmore : k = 5 ∨ k < 5 := by omega
    · obtain rfl : acks = [] := List.length_eq_zero_iff.1 (by omega)
      rw [if_pos rfl]
      exact congrArg (fun t => Host.Outcome.next (exitHandler t)) (primDone_stop hpos)
    · rw [if_neg hmore.ne, hdrop, ← frameDone_cons]
      have hnext : (primDone (dacFrame s.cfg s.hsample)[k] ack s).hpos.val = k + 1 :=
        (Fin.val_add_one_of_lt' (by omega)).trans (congrArg (· + 1) hpos)
      have hrest : (primDone (dacFrame s.cfg s.hsample)[k] ack s).env.i2cIn = acks.map .completes ++ rest :=
        congrArg List.tail hacks
      exact ih (by omega) (by omega) hin hnext hrest

theorem runInstr_tick_frame (hlen : acks.length = 6) (hin : s.inHandler = true) (hpos : s.hpos = 0)
    (hacks : s.env.i2cIn = acks.map .completes ++ rest) :
    runInstr .tick 6 s = .next (exitHandler (frameDone (dacFrame s.cfg s.hsample) acks s)) := by
  have hrun := runInstr_tick_frameTail (k := 0) (by omega) (by omega) hin (congrArg Fin.val hpos) hacks
  rwa [hlen, List.drop_zero] at hrun

end

/-! ### The entry and the exit -/

/-- Playback is on and the consumer waits for a tick, at an index that the ring has. -/
def AwaitsTick (s : State) : Prop :=
  s.playing = true ∧ s.tickLatch = false ∧ s.inHandler = false ∧ s.playIndex.toNat < 400

/-- The half that the play index leaves by going on from `i` (R539, R540). -/
def crossedHalf (i : Nat) : Option Half :=
  if (i + 1) % 400 = 200 then some .lower else if (i + 1) % 400 = 0 then some .upper else none

/-- What a signal for the crossed half records (R545, R552). -/
def crossingEvents (s : State) : List Event :=
  match crossedHalf s.playIndex.toNat with
  | none => []
  | some h => (if s.pending.isSome then [.hazard .signalOverrun] else []) ++ [.signal h]

/-- The sample that the next tick plays (R536). -/
def nextSample (s : State) : Byte := readByte s.ring s.playIndex.toNat

/-- The tick has been latched and taken (R535, R536, R551). -/
def entered (s : State) : State :=
  { s with
    tickLatch := false
    inHandler := true
    hsample := nextSample s
    hpos := 0
    underrun := s.underrun || underrunNow s
    history := s.history ++ (if underrunNow s then [.hazard .underrun] else []) }

/-- What a whole tick records (R537, R545, R551, R552). -/
def tickEvents (acks : List Bool) (s : State) : List Event :=
  (if underrunNow s then [.hazard .underrun] else []) ++
    (List.zipWith primEvent (dacFrame s.cfg (nextSample s)) acks ++ crossingEvents s)

/-- The state after a whole tick. -/
def ticked (acks : List Bool) (s : State) : State :=
  { s with
    tickLatch := false
    inHandler := false
    hsample := nextSample s
    hpos := 6
    i2cOpen := false
    playIndex := BitVec.ofNat 9 ((s.playIndex.toNat + 1) % 400)
    pending := (crossedHalf s.playIndex.toNat).or s.pending
    sem := s.sem + (crossedHalf s.playIndex.toNat).toList.length
    underrun := s.underrun || underrunNow s
    sigOverrun := s.sigOverrun || ((crossedHalf s.playIndex.toNat).isSome && s.pending.isSome)
    history := s.history ++ tickEvents acks s
    env := { s.env with i2cIn := s.env.i2cIn.drop acks.length, i2cCount := s.env.i2cCount + acks.length } }

section
variable {s : State} {acks : List Bool} {rest : List I2cAnswer}

theorem execTick_enters (h : AwaitsTick s) : exec .tick (tickSource s) = .next (entered s) := by
  obtain ⟨hpl, hlatch, hin, hidx⟩ := h
  have hsource : tickSource s = { s with tickLatch := true } := by simp [tickSource, hpl, hlatch]
  have hwaits : TickWaits { s with tickLatch := true } := ⟨hpl, rfl, hin⟩
  rw [hsource, exec, execTick_of_tickWaits hwaits, enterHandler_eq]
  exact if_pos hidx

/-- The exit goes on in the ring and signals the half it leaves (R538 to R540). -/
theorem exitHandler_crossing (hidx : s.playIndex.toNat < 400) :
    exitHandler s = { s with
      inHandler := false
      playIndex := BitVec.ofNat 9 ((s.playIndex.toNat + 1) % 400)
      pending := (crossedHalf s.playIndex.toNat).or s.pending
      sem := s.sem + (crossedHalf s.playIndex.toNat).toList.length
      sigOverrun := s.sigOverrun || ((crossedHalf s.playIndex.toNat).isSome && s.pending.isSome)
      history := s.history ++ crossingEvents s } := by
  have hnext : (s.playIndex + 1).toNat = s.playIndex.toNat + 1 := by bv_omega
  rw [exitHandler_eq, advancePlayIndex, crossingEvents]
  obtain hi | hi | ⟨hlower, hupper⟩ : s.playIndex.toNat + 1 = 200 ∨ s.playIndex.toNat + 1 = 400 ∨
      s.playIndex.toNat + 1 ≠ 200 ∧ s.playIndex.toNat + 1 ≠ 400 := by omega
  · have hidx' : s.playIndex + 1#9 = 200#9 := BitVec.eq_of_toNat_eq (hnext.trans hi)
    simp [crossedHalf, hi, hidx', signal_eq]
  · have hidx' : s.playIndex + 1#9 = 400#9 := BitVec.eq_of_toNat_eq (hnext.trans hi)
    simp [crossedHalf, hi, hidx', signal_eq]
  · have hmod : (s.playIndex.toNat + 1) % 400 = s.playIndex.toNat + 1 := Nat.mod_eq_of_lt (by omega)
    have hidx' : s.playIndex + 1#9 ≠ 200#9 ∧ s.playIndex + 1#9 ≠ 400#9 := by constructor <;> bv_omega
    have hofNat : BitVec.ofNat 9 (s.playIndex.toNat + 1) = s.playIndex + 1#9 := by bv_omega
    simp [crossedHalf, hmod, hlower, hidx', hofNat]

theorem runInstr_tick_whole (h : AwaitsTick s) (hlen : acks.length = 6)
    (hacks : s.env.i2cIn = acks.map .completes ++ rest) :
    runInstr .tick 7 (tickSource s) = .next (ticked acks s) := by
  have henters := execTick_enters h
  obtain ⟨-, -, -, hidx⟩ := h
  refine (runInstr_succ henters).trans ((runInstr_tick_frame (s := entered s) hlen rfl rfl hacks).trans ?_)
  rw [exitHandler_crossing (s := frameDone _ acks (entered s)) hidx, ticked, tickEvents, ← List.append_assoc, ← List.append_assoc]
  rfl

end

/-! ### What the history shows of a tick -/

/-- The bytes of the transaction that is open after `es`, when `acc` was open before. -/
def leftOpen : Option (List Byte) → List Event → Option (List Byte)
  | acc, [] => acc
  | _, .i2cStart :: es => leftOpen (some []) es
  | acc, .i2cByte b _ :: es => leftOpen (acc.map (· ++ [b])) es
  | _, .i2cStop :: es => leftOpen none es
  | acc, .spi _ _ _ :: es => leftOpen acc es
  | acc, .cs _ :: es => leftOpen acc es
  | acc, .signal _ :: es => leftOpen acc es
  | acc, .hazard _ :: es => leftOpen acc es

theorem emittedFrom_append (p : Params) (acc : Option (List Byte)) (es es' : List Event) :
    emittedFrom p acc (es ++ es') = emittedFrom p acc es ++ emittedFrom p (leftOpen acc es) es' := by
  induction es generalizing acc with
  | nil => rfl
  | cons e es ih => cases e <;> simp [emittedFrom, leftOpen, ih]

theorem signals_append (es es' : List Event) : signals (es ++ es') = signals es ++ signals es' :=
  List.filterMap_append

section
variable {acks : List Bool}

/-- A whole frame emits its sample, whatever was open before (R505). -/
theorem emittedFrom_dacFrame (p : Params) (acc : Option (List Byte)) (v : Byte) (es : List Event) (hlen : acks.length = 6) :
    emittedFrom p acc (List.zipWith primEvent (dacFrame p v) acks ++ es) = v :: emittedFrom p none es := by
  match acks, hlen with
  | [_, _, _, _, _, _], _ => simp [dacFrame, primEvent, emittedFrom, sampleOf]

theorem signals_dacFrame (p : Params) (v : Byte) (hlen : acks.length = 6) :
    signals (List.zipWith primEvent (dacFrame p v) acks) = [] := by
  match acks, hlen with
  | [_, _, _, _, _, _], _ => rfl

theorem emittedFrom_crossingEvents (p : Params) (acc : Option (List Byte)) (s : State) :
    emittedFrom p acc (crossingEvents s) = [] := by
  unfold crossingEvents
  cases crossedHalf s.playIndex.toNat <;> cases s.pending <;> rfl

theorem signals_crossingEvents (s : State) : signals (crossingEvents s) = (crossedHalf s.playIndex.toNat).toList := by
  unfold crossingEvents
  cases crossedHalf s.playIndex.toNat <;> cases s.pending <;> rfl

theorem emittedFrom_tickEvents (acc : Option (List Byte)) (s : State) (hlen : acks.length = 6) :
    emittedFrom s.cfg acc (tickEvents acks s) = [nextSample s] := by
  have hframe : emittedFrom s.cfg acc (List.zipWith primEvent (dacFrame s.cfg (nextSample s)) acks ++ crossingEvents s) =
      [nextSample s] := by
    rw [emittedFrom_dacFrame _ _ _ _ hlen, emittedFrom_crossingEvents]
  unfold tickEvents
  split <;> exact hframe

theorem signals_tickEvents (s : State) (hlen : acks.length = 6) :
    signals (tickEvents acks s) = (crossedHalf s.playIndex.toNat).toList := by
  rw [tickEvents, signals_append, signals_append, signals_dacFrame _ _ hlen, signals_crossingEvents]
  split <;> rfl

end

/-! ### Ticks in a row -/

theorem expectedSignals_eq (i n : Nat) :
    expectedSignals i n = (List.range n).filterMap fun t => crossedHalf (i + t) := rfl

/-- What the first tick signals, and what the ticks after it do (R541). -/
theorem expectedSignals_succ (i n : Nat) :
    expectedSignals i (n + 1) = (crossedHalf i).toList ++ expectedSignals ((i + 1) % 400) n := by
  have hshift : ∀ t, crossedHalf (i + (t + 1)) = crossedHalf ((i + 1) % 400 + t) := fun t => by
    have hmod : (i + (t + 1) + 1) % 400 = ((i + 1) % 400 + t + 1) % 400 := by omega
    simp only [crossedHalf, hmod]
  rw [expectedSignals_eq, expectedSignals_eq, List.range_succ_eq_map, List.filterMap_cons, List.filterMap_map]
  simp only [Function.comp_def, Nat.succ_eq_add_one, hshift, Nat.add_zero]
  cases crossedHalf i <;> rfl

/-- What `n` whole ticks leave (R505, R538 to R541). -/
structure Played (n : Nat) (s t : State) : Prop where
  index : t.playIndex.toNat = (s.playIndex.toNat + n) % 400
  signalled : signals t.history = signals s.history ++ expectedSignals s.playIndex.toNat n
  sem : t.sem = s.sem + (expectedSignals s.playIndex.toNat n).length
  emits : emitted t = emitted s ++ (List.range n).map (fun j => readByte s.ring ((s.playIndex.toNat + j) % 400))
  ring : t.ring = s.ring
  prod : t.prod = s.prod
  cur : t.cur = s.cur

section
variable {n : Nat} {s t u : State} {acks : List Bool}

theorem Played.zero (hidx : s.playIndex.toNat < 400) : Played 0 s s where
  index := (Nat.mod_eq_of_lt hidx).symm
  signalled := (List.append_nil _).symm
  sem := rfl
  emits := (List.append_nil _).symm
  ring := rfl
  prod := rfl
  cur := rfl

theorem awaitsTick_ticked (h : AwaitsTick s) : AwaitsTick (ticked acks s) := by
  obtain ⟨hpl, -, -, hidx⟩ := h
  refine ⟨hpl, rfl, rfl, ?_⟩
  simp only [ticked, BitVec.toNat_ofNat]
  omega

/-- A tick first, and then `n` more. -/
theorem Played.succ (hidx : s.playIndex.toNat < 400) (hlen : acks.length = 6) (h : Played n (ticked acks s) t) :
    Played (n + 1) s t := by
  have hnext : (ticked acks s).playIndex.toNat = (s.playIndex.toNat + 1) % 400 := by
    simp only [ticked, BitVec.toNat_ofNat]
    omega
  have hsignals : signals (ticked acks s).history = signals s.history ++ (crossedHalf s.playIndex.toNat).toList := by
    rw [ticked, signals_append, signals_tickEvents s hlen]
  have hemitted : emitted (ticked acks s) = emitted s ++ [readByte s.ring (s.playIndex.toNat % 400)] := by
    rw [Nat.mod_eq_of_lt hidx]
    exact (emittedFrom_append _ _ _ _).trans (congrArg _ (emittedFrom_tickEvents _ s hlen))
  obtain ⟨hindex', hsignals', hsem', hemitted', hring', hprod', hcur'⟩ := h
  rw [hnext] at hindex' hsignals' hsem' hemitted'
  refine ⟨?_, ?_, ?_, ?_, hring', hprod', hcur'⟩
  · omega
  · rw [hsignals', hsignals, expectedSignals_succ, List.append_assoc]
  · rw [hsem', expectedSignals_succ, List.length_append, ← Nat.add_assoc]
    rfl
  · rw [hemitted', hemitted, List.range_succ_eq_map, List.map_cons, List.map_map, List.append_assoc]
    have hshift : ∀ j, ((s.playIndex.toNat + 1) % 400 + j) % 400 = (s.playIndex.toNat + (j + 1)) % 400 := fun j => by omega
    exact congrArg (fun l => emitted s ++ (readByte s.ring (s.playIndex.toNat % 400) :: l))
      (List.map_congr_left fun j _ => congrArg (readByte s.ring) (hshift j))

end

/-- Settles O55: by induction on the ticks, each of which is `ticked`. -/
theorem ticksPlayTheRingAndSignalCrossings : Obligations.TicksPlayTheRingAndSignalCrossings := by
  intro n
  have hplayed : ∀ s, AwaitsTick s → I2cCompletes (6 * n) s → ∃ t, runTicks n s = .next t ∧ Played n s t := by
    induction n with
    | zero => exact fun s ⟨_, _, _, hidx⟩ _ => ⟨s, rfl, .zero hidx⟩
    | succ n ih =>
      intro s h hi2c
      have hsplit : 6 * (n + 1) = 6 + 6 * n := by omega
      obtain ⟨hfirst, hrest⟩ := i2cCompletes_add (hsplit ▸ hi2c)
      obtain ⟨acks, hlen, hacks⟩ := exists_acks hfirst
      obtain ⟨t, hrun, hplayed⟩ := ih (ticked acks s) (awaitsTick_ticked h) (hrest _ (hlen ▸ rfl))
      obtain ⟨-, -, -, hidx⟩ := id h
      refine ⟨t, ?_, hplayed.succ hidx hlen⟩
      rw [runTicks, runInstr_tick_whole h hlen hacks]
      exact hrun
  intro s hpl hlatch hin hidx hi2c
  obtain ⟨t, hrun, hindex, hsignals, hsem, hemitted, hring, hprod, hcur⟩ := hplayed s ⟨hpl, hlatch, hin, hidx⟩ hi2c
  exact ⟨t, hrun, hindex, hsignals, hsem, hemitted, hring, hprod, hcur⟩

end Sys2Proof.Machine
end

section
/-! The dispatch of the command engine (R400 to R403, R405 to R408): what becomes of a write to `CMD`, which words are
illegal, and the decode step of every command. -/

namespace Sys2Proof

/-! ### The opcode map -/

/-- The opcodes of R301. -/
def mappedOpcodes : List Nat :=
  [0x00, 0x01, 0x02, 0x03, 0x04, 0x05, 0x06, 0x10, 0x11, 0x20, 0x21, 0x22, 0x23, 0x30, 0x31, 0x3F]

section
variable {opc d : Byte} {reserved : Short}

/-- The decoder's map has the opcodes of R301 and no others (R302). -/
theorem decodeOpcode_isSome : (decodeOpcode opc d).isSome = true ↔ opc.toNat ∈ mappedOpcodes := by
  unfold decodeOpcode
  split
  case h_17 => simp_all [mappedOpcodes]
  all_goals simp [mappedOpcodes, *]

/-- Which fields decode: no reserved bit, and an opcode of the map (R302, R405). -/
theorem exists_decodeFields :
    (∃ i, decodeFields opc d reserved = .ok i) ↔ reserved = 0 ∧ opc.toNat ∈ mappedOpcodes := by
  rw [← decodeOpcode_isSome (d := d), Option.isSome_iff_exists]
  constructor
  · rintro ⟨i, h⟩
    obtain ⟨hreserved, hi⟩ := decodeFields_ok h
    exact ⟨hreserved, i, hi⟩
  · rintro ⟨rfl, i, hi⟩
    exact ⟨i, by rw [decodeFields, if_pos rfl, hi]⟩

end

end Sys2Proof

namespace Sys2Proof.Machine

open Sys2Proof.Safety

/-! ### The write to `CMD` -/

section
variable {s : State} {w : Word}

/-- The write of a word to `CMD` is taken, and issues it (R206, R400). -/
theorem step_of_cmd_write (hturn : s.turn = .host (.write 0x000 4 w)) (h : s.accessFault = none) :
    step s = .next (issue w s).advance :=
  step_of_taken hturn h rfl rfl (by decide : 0x000 < 0x1000)

theorem issue_of_idle (h : s.busy = false) : issue w s = { s with busy := true, cur := some (accepted w s) } := by
  simp [issue, h]

theorem issue_of_busy (h : s.busy = true) : issue w s = { s with cmdLost := true } := by
  simp [issue, h]

end

/-- Settles O19: the write is taken, and an idle engine accepts the word. -/
theorem commandIsAcceptedWithItsSnapshot : Obligations.CommandIsAcceptedWithItsSnapshot := by
  intro s w hturn h hbusy
  rw [step_of_cmd_write hturn h, issue_of_idle hbusy]
  rfl

/-- Settles O20: the write is taken, and a busy engine loses the word. -/
theorem commandWhileBusyIsLost : Obligations.CommandWhileBusyIsLost := by
  intro s w hturn h hbusy
  rw [step_of_cmd_write hturn h, issue_of_busy hbusy]

/-! ### The decode step -/

/-- The step that decodes the command `c` to the instruction `i` is next (R402), and nothing holds the engine (R620). -/
structure Decoding (i : Instr) (c : Command) (s : State) : Prop where
  cur : s.cur = some c
  instr : c.instr = .ok i
  pos : c.pos = .decode
  ready : taskReady s = true

section
variable {s : State} {c : Command} {i : Instr} {opc : Byte}

/-- An accepted command decodes by its opcode (R301, R402). -/
theorem Decoding.of_accepted (h : Accepted opc c s) (hi : decodeOpcode opc c.data8 = some i) : Decoding i c s := by
  obtain ⟨hcur, hopc, hreserved, hpos, hready⟩ := h
  exact ⟨hcur, Command.instr_eq hreserved (hopc ▸ hi), hpos, hready⟩

theorem Decoding.current_eq (h : Decoding i c s) : c.current = .ok i := by
  rw [Command.current, h.pos]
  exact h.instr

theorem Decoding.inDecodeStep_eq (h : Decoding i c s) (effect : Command → State) :
    inDecodeStep i s effect = .next (effect c) :=
  Machine.inDecodeStep_eq h.cur h.ready h.instr h.pos

/-- The command engine's position moves, and nothing else. -/
theorem setPos_of_cur (hc : s.cur = some c) (p : CmdPos) : setPos p s = { s with cur := some { c with pos := p } } := by
  rw [setPos, hc, Option.map_some]

/-! The commands that go on after their decode step. -/

theorem execSdInit_decoding (h : Decoding .sdInit c s) : execSdInit s = .next (sdInitDecode s) := by
  simp only [execSdInit, onCommand_eq h.cur h.ready h.instr, h.pos]

theorem execSdRead_decoding (h : Decoding .sdRead c s) : execSdRead s = .next (sdReadDecode c s) := by
  simp only [execSdRead, onCommand_eq h.cur h.ready h.instr, h.pos]

theorem singlePrim_decoding (h : Decoding i c s) (needs : Bool) (prim : I2cPrim) :
    singlePrim i needs prim s = .next (i2cDecode needs .i2c s) := by
  simp only [singlePrim, onCommand_eq h.cur h.ready h.instr, h.pos]

theorem execDacWrite_decoding {d : Byte} (h : Decoding (.dacWrite d) c s) :
    execDacWrite d s = .next (i2cDecode false (.dac 0) s) := by
  simp only [execDacWrite, onCommand_eq h.cur h.ready h.instr, h.pos]

theorem execPbStop_decoding (h : Decoding .pbStop c s) : execPbStop s = .next (pbStopDecode s) := by
  simp only [execPbStop, onCommand_eq h.cur h.ready h.instr, h.pos]

/-- The decode step of a word that has a meaning always completes (R402). -/
theorem Decoding.exec_next (h : Decoding i c s) : ∃ t, exec i s = .next t := by
  obtain ⟨-, hopc⟩ := decodeFields_ok h.instr
  cases i with
  | nop | spiXfer _ | spiSend _ | spiRecv | spiSetDiv | spiSelect | spiDeselect | pbStart | clrFlags =>
    exact ⟨_, h.inDecodeStep_eq _⟩
  | sdInit => exact ⟨_, execSdInit_decoding h⟩
  | sdRead => exact ⟨_, execSdRead_decoding h⟩
  | i2cStart | i2cWrite _ | i2cStop => exact ⟨_, singlePrim_decoding h _ _⟩
  | dacWrite _ => exact ⟨_, execDacWrite_decoding h⟩
  | pbStop => exact ⟨_, execPbStop_decoding h⟩
  | tick | refill | goIdleState | sendIfCond | appCmd | sendOpCond | readOcr | readSingleBlock _ =>
    unfold decodeOpcode at hopc
    split at hopc <;> cases hopc

/-- The decode step of a word that has none (R405). -/
theorem step_of_illegal {r : Reject} (hturn : s.turn = .cmd) (hc : s.cur = some c) (hpos : c.pos = .decode)
    (hready : taskReady s = true) (hi : c.instr = .error r) : step s = .next (finish .errIllegal s).advance := by
  have hcurrent : c.current = .error r := by
    rw [Command.current, hpos]
    exact hi
  simp only [step, agentStep, hturn, commandAgent, hc, hcurrent, illegalCommand, hready, hpos, and_self, if_true, settle]

end

/-- Settles O3: the decoder accepts the words whose fields are in the map; the decode step of any other ends it. -/
theorem illegalWordsEndInTheDecodeStep : Obligations.IllegalWordsEndInTheDecodeStep := by
  refine ⟨fun w => exists_decodeFields, fun s c w hturn hc hpos hready hopc hdata hreserved hillegal => ?_⟩
  have hinstr : c.instr = decodeCommand w := by
    rw [Command.instr, hopc, hdata, hreserved]
    rfl
  cases hw : decodeCommand w with
  | ok i => exact absurd ⟨i, hw⟩ hillegal
  | error r => exact step_of_illegal hturn hc hpos hready (hinstr.trans hw)

/-! ### The commands of this family -/

/-- Settles O23: an accepted word with opcode 0 is NOP, all in its decode step. -/
theorem nopFinishesOk : Obligations.NopFinishesOk := by
  intro s c h
  have hdecoding : Decoding .nop c s := .of_accepted h rfl
  exact ⟨hdecoding.instr, hdecoding.inDecodeStep_eq _⟩

/-- Settles O24: CLRFLAGS is all in its decode step. -/
theorem clrflagsClearsTheFlags : Obligations.ClrflagsClearsTheFlags := by
  intro s c h
  have hdecoding : Decoding .clrFlags c s := .of_accepted h rfl
  exact ⟨hdecoding.instr, hdecoding.inDecodeStep_eq _⟩

end Sys2Proof.Machine
end

section
/-! The checks of the decode step (R402) and the arbitration of the four classes (R404): SPI and SD commands, I2C commands
and DAC_WRITE, PB_START, and the commands that nothing refuses. -/

namespace Sys2Proof.Machine

open Sys2Proof.Safety

/-! ### The state checks -/

section
variable {s : State} {c : Command}

/-- Past arbitration SD_INIT asks for the card's state alone (R453). -/
theorem sdInitDecode_of_free (h : SpiFree s) :
    sdInitDecode s =
      if s.card = .uninitialized then
        wakeStep 0 (selectCard false { s with div := nearestOf s.cfg.supportedDivisors s.cfg.slowDivisor })
      else finish .errState s := by
  have hbusy : spiBusy s = false := spiBusy_eq_false.2 h
  simp [sdInitDecode, unlessSpiBusy, hbusy]

/-- The deselection and the first wake-up byte (R454). -/
theorem wakeStep_zero_deselected (hc : s.cur = some c) :
    wakeStep 0 (selectCard false s) = { s with
      cs := false
      history := s.history ++ [.cs false, .spi false 0xFF (cardAnswer s)]
      env := cardTaken s
      cur := some { c with pos := .wake 1 } } := by
  have hwake : wakeStep 0 (selectCard false s) = setPos (.wake 1) (xfer filler (selectCard false s)) := rfl
  have hevents : s.history ++ [.cs false, .spi false 0xFF (cardAnswer s)] =
      s.history ++ [.cs false] ++ [.spi false 0xFF (cardAnswer s)] := List.append_cons ..
  rw [hwake, setPos_of_cur (s := xfer filler (selectCard false s)) hc, hevents]
  rfl

/-- While playback is stopped an I2C command asks for `I2C_OPEN` alone (R402, R501 to R503, R506). -/
theorem i2cDecode_of_stopped (hpl : s.playing = false) (hc : s.cur = some c) (needs : Bool) (p : CmdPos) :
    i2cDecode needs p s =
      if s.i2cOpen = needs then { s with cur := some { c with pos := p } } else finish .errState s := by
  rw [← setPos_of_cur hc]
  simp [i2cDecode, i2cBusy, hpl]

theorem i2cDecode_of_stopped_closed (hpl : s.playing = false) (hc : s.cur = some c) (p : CmdPos) :
    i2cDecode false p s =
      if s.i2cOpen then finish .errState s else { s with cur := some { c with pos := p } } := by
  rw [i2cDecode_of_stopped hpl hc]
  cases ho : s.i2cOpen <;> rfl

end

/-- Settles O31: the card's state decides; the wake-up byte is sent with the card deselected. -/
theorem sdInitDecodeStep : Obligations.SdInitDecodeStep := by
  intro s c h hfree
  have hdecoding : Decoding .sdInit c s := .of_accepted h rfl
  have hstep : exec .sdInit s = .next (sdInitDecode s) := execSdInit_decoding hdecoding
  rw [hstep, sdInitDecode_of_free hfree]
  refine ⟨hdecoding.instr, fun hcard => ?_, fun hcard => ?_⟩
  · rw [if_neg hcard]
    rfl
  · rw [if_pos hcard]
    exact congrArg Host.Outcome.next (wakeStep_zero_deselected hdecoding.cur)

/-- Settles O44: what each of the four commands needs of `I2C_OPEN`. -/
theorem i2cCommandsDecode : Obligations.I2cCommandsDecode := by
  intro s c hpl
  refine ⟨fun h => ?_, fun h => ?_, fun h => ?_, fun h => ?_⟩
  · have hdecoding : Decoding .i2cStart c s := .of_accepted h rfl
    refine ⟨hdecoding.instr, (singlePrim_decoding hdecoding false .start).trans ?_⟩
    rw [i2cDecode_of_stopped_closed hpl hdecoding.cur]
    rfl
  · have hdecoding : Decoding (.i2cWrite c.data8) c s := .of_accepted h rfl
    refine ⟨hdecoding.instr, (singlePrim_decoding hdecoding true (.write c.data8)).trans ?_⟩
    rw [i2cDecode_of_stopped hpl hdecoding.cur]
    rfl
  · have hdecoding : Decoding .i2cStop c s := .of_accepted h rfl
    refine ⟨hdecoding.instr, (singlePrim_decoding hdecoding true .stop).trans ?_⟩
    rw [i2cDecode_of_stopped hpl hdecoding.cur]
    rfl
  · have hdecoding : Decoding (.dacWrite c.data8) c s := .of_accepted h rfl
    refine ⟨hdecoding.instr, (execDacWrite_decoding hdecoding).trans ?_⟩
    rw [i2cDecode_of_stopped_closed hpl hdecoding.cur]
    rfl

/-- Settles O49: PB_START is all in its decode step, and its checks are the statement's. -/
theorem pbStartEnablesTheInterrupt : Obligations.PbStartEnablesTheInterrupt := by
  intro s c h
  have hdecoding : Decoding .pbStart c s := .of_accepted h rfl
  refine ⟨hdecoding.instr, (hdecoding.inDecodeStep_eq _).trans ?_⟩
  simp only [Card.ready_eq_true]
  rfl

/-! ### Arbitration -/

/-- The command goes on, or it ends with a code other than `ERR_BUSY` (R404). -/
def NotRefused (t : State) : Prop := t.cur ≠ none ∨ t.result ≠ .errBusy

section
variable {s : State} {c : Command} {i : Instr}

theorem notRefused_finish {code : ResultCode} (h : code ≠ .errBusy) : NotRefused (finish code s) := .inr h

theorem notRefused_setPos (hc : s.cur = some c) (p : CmdPos) : NotRefused (setPos p s) :=
  .inl (by simp [setPos, hc])

theorem NotRefused.ite {p : Prop} [Decidable p] {t t' : State} (h : NotRefused t) (h' : NotRefused t') :
    NotRefused (if p then t else t') := by
  split
  exacts [h, h']

/-- SD_READ's first frame byte leaves the command under way. -/
theorem notRefused_readStarts (hc : s.cur = some c) (addr : Word) :
    NotRefused (commandReadStep c { addr := addr, pos := .command (.frame 0) } s) := by
  rw [commandReadStep_eq hc, Reader.step_frameByte]
  exact .inl nofun

/-- The SPI class (R404). -/
inductive SpiClass : Instr → Prop
  | spiXfer (d : Byte) : SpiClass (.spiXfer d)
  | spiSend (d : Byte) : SpiClass (.spiSend d)
  | spiRecv : SpiClass .spiRecv
  | spiSetDiv : SpiClass .spiSetDiv
  | spiSelect : SpiClass .spiSelect
  | spiDeselect : SpiClass .spiDeselect
  | sdInit : SpiClass .sdInit
  | sdRead : SpiClass .sdRead

/-- The decode step of an SPI-class command asks for arbitration first, and is not refused after it (R402, R404). -/
theorem SpiClass.exec_decoding (hi : SpiClass i) (h : Decoding i c s) :
    ∃ t, exec i s = .next (unlessSpiBusy s t) ∧ NotRefused t := by
  cases hi with
  | spiXfer | spiSend | spiRecv | spiSetDiv | spiSelect | spiDeselect =>
    exact ⟨_, h.inDecodeStep_eq _, notRefused_finish nofun⟩
  | sdInit =>
    exact ⟨_, execSdInit_decoding h, .ite (notRefused_setPos h.cur _) (notRefused_finish nofun)⟩
  | sdRead =>
    exact ⟨_, execSdRead_decoding h, .ite (notRefused_finish nofun)
      (.ite (notRefused_readStarts h.cur _) (notRefused_finish nofun))⟩

/-- The I2C class (R404). -/
inductive I2cClass : Instr → Prop
  | i2cStart : I2cClass .i2cStart
  | i2cWrite (d : Byte) : I2cClass (.i2cWrite d)
  | i2cStop : I2cClass .i2cStop
  | dacWrite (d : Byte) : I2cClass (.dacWrite d)

/-- The decode step of an I2C-class command is the check of `I2C_OPEN` behind arbitration (R402, R404). -/
theorem I2cClass.exec_decoding (hi : I2cClass i) (h : Decoding i c s) :
    ∃ needs p, exec i s = .next (i2cDecode needs p s) := by
  cases hi with
  | i2cStart | i2cWrite | i2cStop => exact ⟨_, _, singlePrim_decoding h _ _⟩
  | dacWrite => exact ⟨_, _, execDacWrite_decoding h⟩

theorem spiClass_refused (hi : SpiClass i) (h : Decoding i c s) (hfree : ¬ SpiFree s) :
    exec i s = .next (finish .errBusy s) := by
  obtain ⟨t, hexec, -⟩ := hi.exec_decoding h
  have hbusy : spiBusy s = true := Bool.of_not_eq_false fun hb => hfree (spiBusy_eq_false.1 hb)
  rw [hexec, unlessSpiBusy, if_pos hbusy]

theorem spiClass_taken (hi : SpiClass i) (h : Decoding i c s) (hfree : SpiFree s) :
    ∃ t, exec i s = .next t ∧ NotRefused t := by
  obtain ⟨t, hexec, ht⟩ := hi.exec_decoding h
  exact ⟨t, by rw [hexec, unlessSpiBusy, spiBusy_eq_false.2 hfree]; rfl, ht⟩

theorem i2cClass_refused (hi : I2cClass i) (h : Decoding i c s) (hpl : s.playing = true) :
    exec i s = .next (finish .errBusy s) := by
  obtain ⟨needs, p, hexec⟩ := hi.exec_decoding h
  rw [hexec, i2cDecode, i2cBusy, if_pos hpl]

theorem i2cClass_taken (hi : I2cClass i) (h : Decoding i c s) (hpl : s.playing = false) :
    ∃ t, exec i s = .next t ∧ NotRefused t := by
  obtain ⟨needs, p, hexec⟩ := hi.exec_decoding h
  refine ⟨_, hexec, ?_⟩
  rw [i2cDecode_of_stopped hpl h.cur]
  exact .ite (.inl nofun) (notRefused_finish nofun)

/-- PB_START's check of the I2C bus (R404, R531). -/
theorem pbStart_refused (h : Decoding .pbStart c s) (ho : s.i2cOpen = true) :
    exec .pbStart s = .next (finish .errBusy s) :=
  (h.inDecodeStep_eq _).trans (by rw [if_pos ho])

theorem pbStart_taken (h : Decoding .pbStart c s) (ho : s.i2cOpen = false) :
    ∃ t, exec .pbStart s = .next t ∧ t.result ≠ .errBusy := by
  refine ⟨_, h.inDecodeStep_eq _, ?_⟩
  rw [if_neg (by simp [ho])]
  split_ifs <;> simp only [finish_result] <;> nofun

/-- NOP, PB_STOP and CLRFLAGS are in no class that arbitration refuses (R404). -/
theorem unclassed_taken (hi : i = .nop ∨ i = .pbStop ∨ i = .clrFlags) (h : Decoding i c s) :
    ∃ t, exec i s = .next t ∧ NotRefused t := by
  obtain rfl | rfl | rfl := hi
  · exact ⟨_, h.inDecodeStep_eq _, notRefused_finish nofun⟩
  · exact ⟨_, execPbStop_decoding h, .ite (notRefused_setPos h.cur _) (notRefused_finish nofun)⟩
  · exact ⟨_, h.inDecodeStep_eq _, notRefused_finish nofun⟩

end

/-- Settles O25: class by class, refused or taken. -/
theorem arbitrationRefusesByClass : Obligations.ArbitrationRefusesByClass := by
  intro s c i hacc hinstr
  obtain ⟨hcur, -, -, hpos, hready⟩ := hacc
  have h : Decoding i c s := ⟨hcur, hinstr, hpos, hready⟩
  refine ⟨fun hi => unclassed_taken hi h, ?_, fun hi => ?_, fun hi => ?_⟩
  · rintro rfl
    exact ⟨pbStart_refused h, pbStart_taken h⟩
  · have hclass : I2cClass i := by
      obtain rfl | ⟨d, rfl⟩ | rfl | ⟨d, rfl⟩ := hi
      exacts [.i2cStart, .i2cWrite d, .i2cStop, .dacWrite d]
    exact ⟨i2cClass_refused hclass h, i2cClass_taken hclass h⟩
  · have hclass : SpiClass i := by
      obtain ⟨d, rfl⟩ | ⟨d, rfl⟩ | rfl | rfl | rfl | rfl | rfl | rfl := hi
      exacts [.spiXfer d, .spiSend d, .spiRecv, .spiSetDiv, .spiSelect, .spiDeselect, .sdInit, .sdRead]
    exact ⟨spiClass_refused hclass h, spiClass_taken hclass h⟩

end Sys2Proof.Machine
end

section
/-! An instruction of the table that is placed in a state (R235, R400, R450): the next step is the command engine's, runs
it and completes it. -/

namespace Sys2Proof.Machine

section
variable {s : State}

theorem taskReady_withCommand (c : Command) (s : State) : taskReady (withCommand c s) = true := by
  cases hpl : s.playing <;> simp [taskReady, withCommand, State.withTurn, hpl]

/-- A step that its instruction completes, in the turn of the command engine. -/
theorem step_of_exec_next {c : Command} {i : Instr} {t : State} (hturn : s.turn = .cmd) (hc : s.cur = some c)
    (hi : c.current = .ok i) (h : exec i s = .next t) : step s = .next t.advance := by
  rw [step_of_turn_cmd hturn hc hi, h, settle]

/-- The word placed as an accepted command runs in the next step (R400). -/
theorem placed_command_runs {w : Word} {i : Instr} (h : decodeCommand w = .ok i) :
    ∃ t, exec i (placeCode (.command w) s) = .next t ∧ step (placeCode (.command w) s) = .next t.advance := by
  have hdecoding : Decoding i (accepted w s) (placeCode (.command w) s) := ⟨rfl, h, rfl, taskReady_withCommand _ s⟩
  obtain ⟨t, ht⟩ := hdecoding.exec_next
  exact ⟨t, ht, step_of_exec_next rfl hdecoding.cur hdecoding.current_eq ht⟩

/-- A frame of the initialization, placed at its first byte, runs in the next step (R453). -/
theorem placed_init_runs (c : Command) (ic : InitCommand) (hpos : c.pos = .init (.command ic (.frame 0))) :
    ∃ t, exec ic.instr (withCommand c s) = .next t ∧ step (withCommand c s) = .next t.advance := by
  have ht : exec ic.instr (withCommand c s) = .next (initStep (.command ic (.frame 0)) (withCommand c s)) :=
    (exec_initPos (.command ic (.frame 0)) _).trans (onInitWire_eq rfl hpos (taskReady_withCommand c s))
  exact ⟨_, ht, step_of_exec_next rfl rfl (by rw [Command.current, hpos]; rfl) ht⟩

/-- The frame of a read, placed at its first byte, runs in the next step (R466). -/
theorem placed_read_runs (c : Command) (r : ReadSeq) (hpos : c.pos = .read r) :
    ∃ t, exec (.readSingleBlock r.addr) (withCommand c s) = .next t ∧ step (withCommand c s) = .next t.advance := by
  have ht := execReadSingleBlock_command (s := withCommand c s) rfl rfl hpos (taskReady_withCommand c s)
  exact ⟨_, ht, step_of_exec_next rfl rfl (by rw [Command.current, hpos]) ht⟩

/-- A frame, placed as the next one of the procedure that sends it, runs in the next step (R450). -/
theorem placed_frame_runs {f : FrameWord} {i : Instr} (h : decodeFrame f = .ok i) :
    ∃ t, exec i (placeCode (.frame f) s) = .next t ∧ step (placeCode (.frame f) s) = .next t.advance := by
  have hencode := encode_of_decodeFrame h
  simp only [placeCode, h]
  cases i with
  | goIdleState => exact placed_init_runs _ .goIdle rfl
  | sendIfCond => exact placed_init_runs _ .ifCond rfl
  | appCmd => exact placed_init_runs _ (.appCmd 0) rfl
  | sendOpCond => exact placed_init_runs _ (.opCond 0) rfl
  | readOcr => exact placed_init_runs _ .readOcr rfl
  | readSingleBlock addr =>
    obtain rfl : readBlockFrame addr = f := by cases hencode; rfl
    simp only [initFrameStart, Laws.TableRow.frameArg_readBlockFrame]
    exact placed_read_runs _ { addr := addr, pos := .command (.frame 0) } rfl
  | _ => cases hencode

end

/-- Settles O6: a word or a frame by the length of its row. -/
theorem placedInstructionRunsNext : Obligations.PlacedInstructionRunsNext := by
  intro s nbits w i h
  unfold decodeTableWord at h
  unfold State.withFetchWord
  cases hcode : tableCode nbits w with
  | none => simp [hcode] at h
  | some code =>
    simp only [hcode, Except.toOption] at h
    have hdecode : decode code = .ok i := by
      cases hd : decode code with
      | ok j =>
        rw [hd] at h
        cases h
        rfl
      | error r =>
        rw [hd] at h
        cases h
    cases code with
    | command w => exact placed_command_runs hdecode
    | frame f => exact placed_frame_runs hdecode

end Sys2Proof.Machine
end

section
/-! An I2C primitive that never completes (R500, R603): its agent has no step, its wait outlasts every step, and the other
agents go on. -/

namespace Sys2Proof.Machine

open Sys2Proof.Safety

/-- The command waits for an I2C primitive. -/
def Command.AwaitsPrim (c : Command) : Prop := c.pos = .i2c ∨ ∃ k, c.pos = .dac k

/-! ### The agent that waits -/

section
variable {s t : State} {c : Command}

/-- Every effect of the command engine on a command that waits is a completion. -/
theorem CommandEffect.not_never (h : CommandEffect c s t) (hwait : c.AwaitsPrim) : i2cAnswer s ≠ .never := by
  have hpos : ∀ p, c.pos = p → p = .i2c ∨ ∃ k, p = .dac k := fun p hp => hp ▸ hwait
  cases h with
  | completesPrim _ _ _ hack | completesFramePrim _ _ _ _ _ _ hack => simp [hack]
  | ends _ hp | clears hp | sends _ hp | receives _ hp | setsDivisor _ hp | selects _ hp | startsInit hp | startsRead _ hp
  | waitsForPrim hp | startsFrame hp | startsPlayback hp | stopsPlayback hp | wakes _ hp | inits _ hp | reads _ hp =>
    simpa using hpos _ hp

/-- The one effect of the consumer inside the handler is a completion. -/
theorem ConsumerEffect.not_never (h : ConsumerEffect s t) (hin : s.inHandler = true) : i2cAnswer s ≠ .never := by
  cases h with
  | enters hout => simp [hin] at hout
  | completes _ _ _ _ hack => simp [hack]

/-- The turn of an agent that can do nothing passes. -/
theorem step_passes (hproceeds : Proceeds (agentStep s)) (h : ∀ u, StepEffect s u → u = s) :
    step s = .next s.advance := by
  obtain ⟨t, ht⟩ := hproceeds.settle s
  obtain ⟨u, rfl, hu⟩ := step_effect ht
  exact h u hu ▸ ht

theorem step_cmd_waits (hnever : i2cAnswer s = .never) (hturn : s.turn = .cmd) (hc : s.cur = some c)
    (hwait : c.AwaitsPrim) : step s = .next s.advance := by
  have hproceeds : Proceeds (agentStep s) := by
    rw [agentStep, hturn]
    exact commandAgent_proceeds s
  refine step_passes hproceeds fun u hu => ?_
  cases hu with
  | passes => rfl
  | command c' _ _ hc' _ he =>
    cases hc.symm.trans hc'
    exact absurd hnever (he.not_never hwait)
  | host _ hturn' | tickSource hturn' | producer _ hturn' | consumer _ hturn' => cases hturn.symm.trans hturn'

theorem step_cons_waits (hnever : i2cAnswer s = .never) (hturn : s.turn = .cons) (hin : s.inHandler = true) :
    step s = .next s.advance := by
  have hproceeds : Proceeds (agentStep s) := by
    rw [agentStep, hturn]
    simp only [consumerAgent, exec, execTick, if_pos hin]
    exact handlerStep_proceeds s
  refine step_passes hproceeds fun u hu => ?_
  cases hu with
  | passes => rfl
  | consumer _ _ he => exact absurd hnever (he.not_never hin)
  | host _ hturn' | tickSource hturn' | command _ _ hturn' | producer _ hturn' => cases hturn.symm.trans hturn'

end

/-! ### The answer that does not come -/

/-- From `s` to `t` the card has answered at most one transfer, and no other answer has been taken. -/
def AsksCardOnly (s t : State) : Prop := t.env = s.env ∨ t.env = cardTaken s

section
variable {s t : State}

theorem AsksCardOnly.i2cAnswer_eq (h : AsksCardOnly s t) : i2cAnswer t = i2cAnswer s := by
  obtain h | h := h <;> simp [i2cAnswer, h, cardTaken]

variable (s)

theorem wakeStep_env (k : Fin 10) : (wakeStep k s).env = cardTaken s := by
  unfold wakeStep
  split <;> rfl

theorem initResponse_env (c : InitCommand) (r : Byte) : (initResponse c r s).env = s.env := by
  cases c with
  | appCmd used => rfl
  | goIdle | ifCond | readOcr | opCond used =>
    simp only [initResponse]
    split_ifs <;> rfl

/-- Every step of the initialization is one transfer (R453). -/
theorem initStep_env (p : InitPos) : (initStep p s).env = cardTaken s := by
  cases p with
  | command c p =>
    cases p with
    | frame k =>
      simp only [initStep, selectBefore]
      split <;> rfl
    | poll polled =>
      simp only [initStep]
      split
      exacts [initResponse_env _ c _, rfl]
  | ifCondReply k =>
    simp only [initStep]
    split_ifs <;> rfl
  | ocrReply k o =>
    simp only [initStep]
    split <;> rfl

/-- Every step of a read is one transfer (R466). -/
theorem readStep_env (d : Dest) (offset length : Nat) (r : ReadSeq) :
    (readStep d offset length r s).2.env = cardTaken s := by
  rw [readStep_eq, readTransfer_eq]
  dsimp only
  split <;> rfl

theorem commandReadStep_env (c : Command) (r : ReadSeq) : (commandReadStep c r s).env = cardTaken s := by
  rw [← readStep_env s .scratch c.offset c.length r]
  unfold commandReadStep
  split <;> simp [*]

theorem producerReadStep_env (h : Half) (r : ReadSeq) : (producerReadStep h r s).env = cardTaken s := by
  rw [← readStep_env s .ring (halfOffset h) halfSize r]
  unfold producerReadStep
  split <;> simp [*, finishRefill_eq]

theorem refillWake_asksCardOnly : AsksCardOnly s (refillWake s) := by
  unfold refillWake
  cases s.pending with
  | none => exact .inl rfl
  | some h =>
    dsimp only
    split
    exacts [.inr (producerReadStep_env _ h _), .inl rfl]

/-- No access of the host touches the bus (R205 to R207). -/
theorem hostStep_i2cAnswer (a : HostAccess) : i2cAnswer (hostStep a s) = i2cAnswer s := by
  unfold hostStep
  split_ifs
  · rfl
  · cases a with
    | read off size => rfl
    | write off size w =>
      simp only [takenAccess]
      rw [writeRegister_frame]
      rfl
  · rfl

variable {s}

theorem CommandEffect.asksCardOnly {c : Command} (h : CommandEffect c s t) (hnever : i2cAnswer s = .never) :
    AsksCardOnly s t := by
  cases h with
  | ends | clears | setsDivisor | selects | waitsForPrim | startsFrame | startsPlayback | stopsPlayback => exact .inl rfl
  | sends | receives => exact .inr rfl
  | startsInit => exact .inr (wakeStep_env _ 0)
  | startsRead => exact .inr (commandReadStep_env s c _)
  | wakes k => exact .inr (wakeStep_env s k)
  | inits p => exact .inr (initStep_env s p)
  | reads r => exact .inr (commandReadStep_env s c r)
  | completesPrim _ _ _ hack | completesFramePrim _ _ _ _ _ _ hack => simp [hnever] at hack

theorem ProducerEffect.asksCardOnly (h : ProducerEffect s t) : AsksCardOnly s t := by
  cases h with
  | wakes => exact refillWake_asksCardOnly s
  | fills h r => exact .inr (producerReadStep_env s h r)

theorem ConsumerEffect.asksCardOnly (h : ConsumerEffect s t) (hnever : i2cAnswer s = .never) : AsksCardOnly s t := by
  cases h with
  | enters =>
    rw [enterHandler_eq]
    exact .inl rfl
  | completes _ _ _ _ hack => simp [hnever] at hack

/-- A primitive that never completes is waited for after every step (R500, R603). -/
theorem i2cAnswer_never_of_step (hnever : i2cAnswer s = .never) (hstep : step s = .next t) : i2cAnswer t = .never := by
  obtain ⟨u, rfl, he⟩ := step_effect hstep
  have hadvance : i2cAnswer u.advance = i2cAnswer u := rfl
  rw [hadvance, ← hnever]
  cases he with
  | passes => rfl
  | host a => exact hostStep_i2cAnswer s a
  | tickSource =>
    rw [tickSource_frame]
    rfl
  | command _ _ _ _ _ he => exact (he.asksCardOnly hnever).i2cAnswer_eq
  | producer _ _ _ he => exact he.asksCardOnly.i2cAnswer_eq
  | consumer _ _ he => exact (he.asksCardOnly hnever).i2cAnswer_eq

end

/-! ### The wait lasts -/

section
variable {s t : State} {c : Command}

/-- While `BUSY` the host changes neither the command nor `BUSY` (R408). -/
theorem hostStep_of_busy (a : HostAccess) (h : s.busy = true) :
    (hostStep a s).cur = s.cur ∧ (hostStep a s).busy = s.busy := by
  unfold hostStep
  split_ifs
  · exact ⟨rfl, rfl⟩
  · cases a with
    | read off size => exact ⟨rfl, rfl⟩
    | write off size w =>
      simp only [takenAccess, writeRegister, issue_of_busy h]
      split_ifs <;> exact ⟨rfl, rfl⟩
  · exact ⟨rfl, rfl⟩

theorem command_waits_on (hnever : i2cAnswer s = .never) (hstep : step s = .next t) (hc : s.cur = some c)
    (hbusy : s.busy = true) (hwait : c.AwaitsPrim) : t.cur = some c ∧ t.busy = true := by
  suffices h : t.cur = s.cur ∧ t.busy = s.busy by rwa [hc, hbusy] at h
  have hothers (hcmd : s.turn ≠ .cmd) (hhost : ∀ a, s.turn ≠ .host a) : t.cur = s.cur ∧ t.busy = s.busy := by
    obtain ⟨-, -, hengine, -⟩ := eachElementHasItsWriters s t hstep
    obtain ⟨hbusy', hcur', -⟩ := hengine hcmd hhost
    exact ⟨hcur', hbusy'⟩
  cases hturn : s.turn with
  | cmd =>
    cases (step_cmd_waits hnever hturn hc hwait).symm.trans hstep
    exact ⟨rfl, rfl⟩
  | host a =>
    cases (step_of_turn_host hturn).symm.trans hstep
    exact hostStep_of_busy a hbusy
  | prod | cons | tickSrc => exact hothers (by simp [hturn]) (by simp [hturn])

theorem handler_waits_on (hnever : i2cAnswer s = .never) (hstep : step s = .next t) (hin : s.inHandler = true) :
    t.inHandler = true := by
  by_cases hturn : s.turn = .cons
  · cases (step_cons_waits hnever hturn hin).symm.trans hstep
    exact hin
  · obtain ⟨-, -, -, -, -, -, -, hconsumer, -⟩ := eachElementHasItsWriters s t hstep
    obtain ⟨hkept, -⟩ := hconsumer hturn
    rw [hkept, hin]

end

/-! ### The other agents go on -/

section
variable {s : State}

/-- The producer makes its next transfer (R548). -/
theorem step_prod_fills {h : Half} {r : ReadSeq} (hturn : s.turn = .prod) (hready : taskReady s = true)
    (hprod : s.prod = .filling h r) : step s = .next (producerReadStep h r s).advance := by
  rw [step_of_turn_prod hturn, hprod, Producer.current, execReadSingleBlock_producer hturn hprod hready, settle]

/-- The producer wakes (R546). -/
theorem step_prod_wakes (hturn : s.turn = .prod) (hready : taskReady s = true) (hprod : s.prod = .waiting)
    (hsem : 0 < s.sem) (hspi : spiRunning s = false) : step s = .next (refillWake s).advance := by
  rw [step_of_turn_prod hturn, hprod, Producer.current]
  simp only [exec, execRefill, hready, hprod, hsem, hspi, and_self, if_true, settle]

/-- A read by the producer leaves the signal count and the command as they are. -/
theorem producerReadStep_kept (h : Half) (r : ReadSeq) (s : State) :
    (producerReadStep h r s).sem = s.sem ∧ (producerReadStep h r s).cur = s.cur := by
  refine ⟨?_, (congrArg State.cur (producerReadStep_frame s h r).frame :)⟩
  simp only [producerReadStep, readStep_eq, readTransfer_eq]
  cases readNext s.cfg r.pos (cardAnswer s) <;> simp [finishRefill_eq, ReadNext.isDone]

/-- The wake takes one signal (R546). -/
theorem refillWake_sem (s : State) : (refillWake s).sem = s.sem - 1 := by
  unfold refillWake
  cases s.pending with
  | none => rfl
  | some h =>
    dsimp only
    split
    · obtain ⟨hsem, -⟩ := producerReadStep_kept h
        { addr := wireAddr s.card (refillBlock s.cfg s.cursor), pos := .command (.frame 0) }
        { s with sem := s.sem - 1, pending := none }
      exact hsem
    · rfl

/-- The consumer takes a latched tick (R536). -/
theorem step_cons_enters (hturn : s.turn = .cons) (hwaits : TickWaits s) (hidx : s.playIndex.toNat < 400) :
    step s = .next (enterHandler s).advance := by
  have hring : s.playIndex.toNat < ringSize := hidx
  rw [step_of_turn_cons hturn, exec, execTick_of_tickWaits hwaits, if_pos hring, settle]

theorem tickSource_of_free (hpl : s.playing = true) (hlatch : s.tickLatch = false) :
    tickSource s = { s with tickLatch := true } := by
  simp [tickSource, hpl, hlatch]

theorem tickSource_of_latched (hpl : s.playing = true) (hlatch : s.tickLatch = true) :
    tickSource s = { s with tickLost := true, history := s.history ++ [.hazard .tickLost] } := by
  simp [tickSource, hpl, hlatch, record]

end

/-- Settles O46: what the waiting agent does not do, what outlasts each step, and one step of each other agent. -/
theorem unansweredPrimitiveStallsItsAgent : Obligations.UnansweredPrimitiveStallsItsAgent := by
  intro s hnever
  refine ⟨fun c hturn hc hwait => step_cmd_waits hnever hturn hc hwait,
    fun hturn hin => step_cons_waits hnever hturn hin,
    fun t hstep => ⟨i2cAnswer_never_of_step hnever hstep,
      fun c hc hbusy hwait => command_waits_on hnever hstep hc hbusy hwait,
      handler_waits_on hnever hstep⟩,
    fun h r hturn hready hprod => ?_, fun hturn hready hprod hsem hspi => ?_,
    fun hturn hpl hlatch hin hidx => ?_, fun hturn hpl hlatch => ?_, fun hturn hpl hlatch => ?_,
    fun off hturn halign hrange h => step_of_taken hturn h rfl halign hrange,
    fun w hturn h hbusy => commandWhileBusyIsLost s w hturn h hbusy⟩
  · obtain ⟨-, hcur⟩ := producerReadStep_kept h r s
    exact ⟨_, step_prod_fills hturn hready hprod, congrArg Env.cardCount (producerReadStep_env s h r), hcur⟩
  · have hcur : (refillWake s).cur = s.cur := (congrArg State.cur (refillWake_frame s).frame :)
    exact ⟨_, step_prod_wakes hturn hready hprod hsem hspi, refillWake_sem s, hcur⟩
  · have hcur : (enterHandler s).cur = s.cur := (congrArg State.cur (enterHandler_frame s).frame :)
    exact ⟨_, step_cons_enters hturn ⟨hpl, hlatch, hin⟩ hidx, rfl, rfl, hcur⟩
  · rw [step_of_turn_tickSrc hturn, tickSource_of_free hpl hlatch]
  · rw [step_of_turn_tickSrc hturn, tickSource_of_latched hpl hlatch]

end Sys2Proof.Machine
end

section
/-! The SPI commands (R420 to R428): the divisor fallback, and the decode step of each of the six commands past
arbitration. -/

namespace Sys2Proof.Machine

open Sys2Proof.Safety

/-! ### The divisor fallback -/

/-- `s` is as good a fallback for `d` as `x`: nearer, or as near and no smaller (R422). -/
def AtLeastAsNear (d s x : Short) : Prop :=
  divisorDistance s d < divisorDistance x d ∨ (divisorDistance s d = divisorDistance x d ∧ x.toNat ≤ s.toNat)

section
variable {d s t x : Short}

theorem divisorDistance_eq (s d : Short) : divisorDistance s d = ((s.toNat : Int) - d.toNat).natAbs := by
  unfold divisorDistance
  split <;> omega

theorem AtLeastAsNear.refl (d s : Short) : AtLeastAsNear d s s := .inr ⟨rfl, le_rfl⟩

theorem AtLeastAsNear.trans (h : AtLeastAsNear d s t) (h' : AtLeastAsNear d t x) : AtLeastAsNear d s x := by
  unfold AtLeastAsNear at *
  omega

/-- No divisor but `d` is as near to `d` as `d` itself. -/
theorem AtLeastAsNear.eq_of_self (h : AtLeastAsNear d s d) : s = d := by
  simp only [AtLeastAsNear, divisorDistance_eq] at h
  exact BitVec.eq_of_toNat_eq (by omega)

theorem atLeastAsNear_of_better (h : betterDivisor d s t = true) : AtLeastAsNear d t s := by
  simp only [betterDivisor, Bool.or_eq_true, Bool.and_eq_true, decide_eq_true_eq, beq_iff_eq] at h
  exact h.imp_right (And.imp_right le_of_lt)

theorem atLeastAsNear_of_not_better (h : ¬ betterDivisor d s t = true) : AtLeastAsNear d s t := by
  simp only [betterDivisor, Bool.or_eq_true, Bool.and_eq_true, decide_eq_true_eq, beq_iff_eq] at h
  unfold AtLeastAsNear
  omega

/-- The search keeps the better of the divisors it has seen (R422). -/
theorem bestDivisor_atLeastAsNear (d s : Short) (ts : List Short) :
    AtLeastAsNear d (bestDivisor d s ts) s ∧ ∀ x ∈ ts, AtLeastAsNear d (bestDivisor d s ts) x := by
  induction ts generalizing s with
  | nil => exact ⟨.refl d s, nofun⟩
  | cons t ts ih =>
    rw [bestDivisor, List.forall_mem_cons]
    split
    · rename_i hbetter
      obtain ⟨ht, hts⟩ := ih t
      exact ⟨ht.trans (atLeastAsNear_of_better hbetter), ht, hts⟩
    · rename_i hworse
      obtain ⟨hs, hts⟩ := ih s
      exact ⟨hs, hs.trans (atLeastAsNear_of_not_better hworse), hts⟩

theorem nearestOf_atLeastAsNear {set : List Short} (d : Short) (hx : x ∈ set) :
    AtLeastAsNear d (nearestOf set d) x := by
  cases set with
  | nil => cases hx
  | cons s ts => exact List.forall_mem_cons.2 (bestDivisor_atLeastAsNear d s ts) x hx

end

/-- Settles O30: the search ends with a member, as near as every other; a supported divisor has none but itself as near. -/
theorem nearestDivisorIsNearest : Obligations.NearestDivisorIsNearest := by
  intro set d hset
  refine ⟨nearestOf_mem d hset, fun hd => (nearestOf_atLeastAsNear d hd).eq_of_self, fun x hx => ?_⟩
  rw [← divisorDistance_eq, ← divisorDistance_eq]
  exact nearestOf_atLeastAsNear d hx

/-! ### The commands -/

/-- Past arbitration an accepted SPI command does its whole work in its decode step (R402, R404). -/
theorem inDecodeStep_of_accepted_spi {opc : Byte} {i : Instr} {c : Command} {s : State} (h : Accepted opc c s)
    (hi : decodeOpcode opc c.data8 = some i) (hfree : SpiFree s) (effect : Command → State) :
    c.instr = .ok i ∧ inDecodeStep i s (fun c => unlessSpiBusy s (effect c)) = .next (effect c) := by
  have hdecoding : Decoding i c s := .of_accepted h hi
  refine ⟨hdecoding.instr, ?_⟩
  rw [hdecoding.inDecodeStep_eq, unlessSpiBusy, spiBusy_eq_false.2 hfree, if_neg Bool.false_ne_true]

/-- Settles O26: the decode step is the transfer, whose answer goes to `RX`. -/
theorem spiXferWritesRx : Obligations.SpiXferWritesRx := by
  intro s c h hfree
  exact inDecodeStep_of_accepted_spi h rfl hfree fun _ => finish .ok { xfer c.data8 s with rx := cardAnswer s }

/-- Settles O27: one transfer each, of `DATA8` without a write to `RX`, or of 0xFF with one. -/
theorem spiSendAndRecv : Obligations.SpiSendAndRecv := by
  intro s c hfree
  refine ⟨fun h => ?_, fun h => ?_⟩
  · exact inDecodeStep_of_accepted_spi h rfl hfree fun _ => finish .ok (xfer c.data8 s)
  · exact inDecodeStep_of_accepted_spi h rfl hfree fun _ => finish .ok { recv s with rx := cardAnswer s }

/-- Settles O28: the decode step is the selection or the deselection. -/
theorem spiSelectAndDeselect : Obligations.SpiSelectAndDeselect := by
  intro s c hfree
  refine ⟨fun h => ?_, fun h => ?_⟩
  · exact inDecodeStep_of_accepted_spi h rfl hfree fun _ => finish .ok (selectCard true s)
  · exact inDecodeStep_of_accepted_spi h rfl hfree fun _ => finish .ok (selectCard false s)

/-- Settles O29: the decode step writes the fallback for the command's own divisor, which is the snapshot's. -/
theorem spiSetdivUsesTheFallback : Obligations.SpiSetdivUsesTheFallback := by
  intro s c h hfree
  exact inDecodeStep_of_accepted_spi h rfl hfree fun c =>
    finish .ok { s with div := nearestOf s.cfg.supportedDivisors c.divreq }

end Sys2Proof.Machine
end

section
/-! The receiving steps of a read (R421, R451, R466, R469), for the command engine and for the producer alike. -/

namespace Sys2Proof.Machine

open Sys2Proof.Safety

section
variable {cfg : Params} {d d' : Dest} {offset length : Nat} {addr : Word} {p q : ReadPos} {b : Byte} {m : Memory}
  {s : State}

/-- The model's sequencer takes each of the steps after which a read goes on (R451, R466). -/
theorem readNext_of_goesOn (h : ReadGoesOn cfg b p q) : readNext cfg p b = .go q := by
  cases h with
  | noResponse n hmiss hmore =>
    have hgoes : pollEnds cfg n b = false := by simp [pollEnds, isResponse, hmiss, hmore]
    simp [readNext, hgoes]
  | response n hb =>
    subst hb
    simp [readNext, pollEnds, isResponse, r1Ready]
  | noToken n hb hmore => rw [readNext, dataToken, if_neg hb, if_neg (by omega)]
  | token n hb => rw [readNext, dataToken, if_pos hb]
  | data k hk => exact dif_pos hk
  | lastData => rfl
  | firstCheck => rfl

theorem readMemory_of_ne (h : d ≠ d') : readMemory d d' offset length p b m = m := by
  cases p with
  | data k => exact if_neg fun hd => h hd.1
  | command _ | token _ | check _ => rfl

/-- The destination of a transfer has the byte received at the data byte's index, when that is in range (R466, R469). -/
theorem readByte_readMemory (hm : memoryWf m = true) (a : Nat) :
    readByte (readMemory d d offset length p b m) a =
      if dataIndex p = some a ∧ offset ≤ a ∧ a < offset + length then b else readByte m a := by
  cases p with
  | command _ | token _ | check _ => simp [readMemory, dataIndex]
  | data k =>
    simp only [readMemory, dataIndex, true_and, Option.some.injEq]
    by_cases hk : k.val = a
    · subst hk
      split <;> simp_all [readByte_writeByte]
    · rw [if_neg (c := k.val = a ∧ _) fun h => hk h.1]
      split
      exacts [readByte_writeByte_other (Ne.symm hk), rfl]

/-- All that the transfer of a receiving step writes (R421, R466). -/
theorem readTransfer_of_goesOn (h : ReadGoesOn cfg b p q) :
    readTransfer d offset length addr p s = { s with
      ring := readMemory d .ring offset length p (cardAnswer s) s.ring
      scratch := readMemory d .scratch offset length p (cardAnswer s) s.scratch
      history := s.history ++ [.spi s.cs 0xFF (cardAnswer s)]
      env := cardTaken s } := by
  rw [readTransfer_eq]
  cases h with
  | noResponse | response | noToken | token | data | lastData | firstCheck => rfl

/-- The command engine's read stores in `SCRATCH` alone. -/
theorem Reader.command_transfer_of_goesOn (c : Command) (h : ReadGoesOn cfg b p q) :
    (Reader.command c).transfer addr p s = { s with
      scratch := readMemory .scratch .scratch c.offset c.length p (cardAnswer s) s.scratch
      history := s.history ++ [.spi s.cs 0xFF (cardAnswer s)]
      env := cardTaken s } :=
  (readTransfer_of_goesOn h).trans (by rw [Reader.dest, readMemory_of_ne (d := .scratch) (d' := .ring) nofun]; rfl)

/-- The producer's read stores in `RING` alone. -/
theorem Reader.producer_transfer_of_goesOn (hf : Half) (h : ReadGoesOn cfg b p q) :
    (Reader.producer hf).transfer addr p s = { s with
      ring := readMemory .ring .ring (halfOffset hf) halfSize p (cardAnswer s) s.ring
      history := s.history ++ [.spi s.cs 0xFF (cardAnswer s)]
      env := cardTaken s } :=
  (readTransfer_of_goesOn h).trans (by rw [Reader.dest, readMemory_of_ne (d := .ring) (d' := .scratch) nofun]; rfl)

/-- The second check byte is received, and the read ends with the card deselected (R466, R468). -/
theorem Reader.step_lastCheck (R : Reader) :
    R.step { addr := addr, pos := .check 1 } s = R.ends .ok { s with
      cs := false
      history := s.history ++ [.spi s.cs 0xFF (cardAnswer s), .cs false]
      env := cardTaken s } := by
  have hevents : s.history ++ [.spi s.cs 0xFF (cardAnswer s), .cs false] =
      s.history ++ [.spi s.cs 0xFF (cardAnswer s)] ++ [.cs false] := List.append_cons ..
  rw [Reader.step_done rfl, hevents]
  rfl

end

/-- Settles O40: a step of either reader is its receiving transfer, and its last one the end of its read. -/
theorem readStoresTheByteAtItsIndex : Obligations.ReadStoresTheByteAtItsIndex := by
  intro s addr hready hring hscratch
  refine ⟨fun c p q hturn hc hp hgo => ?_, fun c hturn hc hp => ?_, fun h p q hturn hprod hgo => ?_,
    fun h hturn hprod => ?_⟩
  · refine ⟨_, execReadSingleBlock_command hturn hc hp hready, ?_⟩
    rw [commandReadStep_eq hc, Reader.step_go (readNext_of_goesOn hgo), Reader.command_transfer_of_goesOn c hgo]
    exact ⟨rfl, readByte_readMemory hscratch⟩
  · rw [execReadSingleBlock_command hturn hc hp hready, commandReadStep_eq hc, Reader.step_lastCheck]
    rfl
  · refine ⟨_, execReadSingleBlock_producer hturn hprod hready, ?_⟩
    rw [producerReadStep_eq, Reader.step_go (readNext_of_goesOn hgo), Reader.producer_transfer_of_goesOn h hgo]
    refine ⟨rfl, fun a => (readByte_readMemory hring a).trans (if_congr ?_ rfl rfl)⟩
    exact and_congr_right' in_half_iff
  · rw [execReadSingleBlock_producer hturn hprod hready, producerReadStep_eq, Reader.step_lastCheck, Reader.ends,
      finishRefill_eq]
    cases h <;> simp [nextCursor]

end Sys2Proof.Machine
end

section
/-! The answers to SD commands and what they lead to (R451, R452, R455 to R462, R549, R550): one step of the initialization
at each position that receives, and the step in which a read fails. -/

namespace Sys2Proof.Machine

open Sys2Proof.Safety

/-! ### Addresses -/

/-- Settles O37: the product of words is that of numbers modulo 2^32. -/
theorem wireAddressByCapacity : Obligations.WireAddressByCapacity :=
  fun n => ⟨BitVec.toNat_mul n 512, rfl⟩

/-! ### Responses and classification -/

/-- A poll ends by a response or by its limit (R312, R451). -/
theorem pollEnds_iff {p : Params} {n : Nat} {r : Byte} :
    pollEnds p n r = true ↔ r.getLsbD 7 = false ∨ p.r1PollLimit ≤ n + 1 := by
  simp [pollEnds, isResponse]

theorem classify_eq (o : Byte) : classify o = if o.getLsbD 6 then .idleHighCapacity else .idleStandard := by
  have hmask : o &&& ccsMask = if o.getLsbD 6 then BitVec.twoPow 8 6 else 0 := BitVec.and_twoPow o 6
  rw [classify, highCapacity, hmask]
  cases o.getLsbD 6 <;> rfl

/-! ### The receiving steps of the initialization -/

section
variable {s : State} {c : Command}

/-- The step of SD_INIT under the name of the command that it is sending (R311). -/
theorem exec_wire_init {p : InitPos} (hc : s.cur = some c) (hp : c.pos = .init p) (hready : taskReady s = true) :
    exec p.instr s = .next (initStep p s) :=
  (exec_initPos p s).trans (onInitWire_eq hc hp hready)

theorem initStep_poll_goesOn {ic : InitCommand} {n : Nat} (h : pollEnds s.cfg n (cardAnswer s) = false) :
    initStep (.command ic (.poll n)) s = setPos (.init (.command ic (.poll (n + 1)))) (recv s) := by
  simp [initStep, h]

theorem initStep_poll_ends {ic : InitCommand} {n : Nat} (h : pollEnds s.cfg n (cardAnswer s) = true) :
    initStep (.command ic (.poll n)) s = initResponse ic (cardAnswer s) (recv s) := by
  simp [initStep, h]

/-- A byte is received and the initialization goes on (R421). -/
theorem setPos_recv (hc : s.cur = some c) (p : CmdPos) :
    setPos p (recv s) = { s with
      history := s.history ++ [.spi s.cs 0xFF (cardAnswer s)], env := cardTaken s
      cur := some { c with pos := p } } :=
  setPos_of_cur (s := recv s) hc p

/-- A byte is received and the card deselected (R421, R427). -/
theorem selectCard_recv (s : State) :
    selectCard false (recv s) = { s with
      cs := false
      history := s.history ++ [.spi s.cs 0xFF (cardAnswer s), .cs false], env := cardTaken s } := by
  rw [List.append_cons]
  rfl

/-- A byte is received and the initialization fails (R461). -/
theorem failInit_recv (code : ResultCode) (s : State) :
    failInit code (recv s) = { s with
      history := s.history ++ [.spi s.cs 0xFF (cardAnswer s), .cs false], env := cardTaken s
      cs := false, card := .failed, result := code, busy := false, cur := none } := by
  rw [failInit, selectCard_recv]
  rfl

/-- A byte is received and the initialization succeeds (R459, R460). -/
theorem finishInit_recv (o : Byte) (s : State) :
    finishInit o (recv s) = { s with
      history := s.history ++ [.spi s.cs 0xFF (cardAnswer s), .cs false], env := cardTaken s
      cs := false, div := nearestOf s.cfg.supportedDivisors s.cfg.fastDivisor
      card := if o.getLsbD 6 then .idleHighCapacity else .idleStandard
      result := .ok, busy := false, cur := none } := by
  rw [finishInit, selectCard_recv, classify_eq]
  rfl

end

/-- Settles O34: the poll by its end, and the byte that ends it by its command. -/
theorem initResponsesAreClassified : Obligations.InitResponsesAreClassified := by
  intro s c ic n hc hp hready r goOn failed
  have hstep : exec ic.instr s = .next (initStep (.command ic (.poll n)) s) :=
    exec_wire_init (p := .command ic (.poll n)) hc hp hready
  have hgo : ∀ p, setPos (.init p) (recv s) = goOn p := fun p => setPos_recv hc (.init p)
  have hfail : ∀ code, failInit code (recv s) = failed code := fun code => failInit_recv code s
  refine ⟨fun hmiss hmore => ?_, fun hends => ?_⟩
  · have hnotEnds : pollEnds s.cfg n (cardAnswer s) = false := by
      simp [← Bool.not_eq_true, pollEnds_iff, hmiss, hmore]
    rw [hstep, initStep_poll_goesOn hnotEnds, hgo]
  · rw [hstep, initStep_poll_ends (pollEnds_iff.2 hends)]
    refine congrArg Host.Outcome.next ?_
    cases ic with
    | goIdle | ifCond | readOcr => exact if_congr Iff.rfl (hgo _) (hfail _)
    | appCmd used => exact hgo _
    | opCond used => exact if_congr Iff.rfl (hgo _) (if_congr Iff.rfl (hgo _) (hfail _))

/-- Settles O35: of each reply, a byte before the last one and the last one, which ends it. -/
theorem initRepliesAreChecked : Obligations.InitRepliesAreChecked := by
  intro s c k hc hready b
  refine ⟨fun hp => ?_, fun o hp => ?_⟩
  · have hstep : exec .sendIfCond s = .next (initStep (.ifCondReply k) s) :=
      exec_wire_init (p := .ifCondReply k) hc hp hready
    rw [hstep, initStep]
    split
    · rw [setPos_recv hc]
    · exact congrArg Host.Outcome.next (if_congr Iff.rfl (setPos_recv hc _) (failInit_recv _ s))
  · have hstep : exec .readOcr s = .next (initStep (.ocrReply k o) s) :=
      exec_wire_init (p := .ocrReply k o) hc hp hready
    rw [hstep, initStep]
    split
    · rw [setPos_recv hc]
    · have hk : k ≠ 0 := by
        rintro rfl
        contradiction
      rw [if_neg hk, finishInit_recv]

/-! ### The step in which a refill fails -/

section
variable {R : Reader} {s : State} {addr : Word} {p : ReadPos} {code : ResultCode}

/-- A byte that is not stored ends the read, with the card deselected (R466). -/
theorem Reader.step_done_listens (hp : listens p = true) (h : readNext s.cfg p (cardAnswer s) = .done code) :
    R.step { addr := addr, pos := p } s = R.ends code { s with
      cs := false
      history := s.history ++ [.spi s.cs 0xFF (cardAnswer s), .cs false], env := cardTaken s } := by
  rw [Reader.step_done h, Reader.transfer_listens hp, ← xfer_eq, ← selectCard_recv]
  rfl

/-- A fill that fails ends by the rules of a refill's end (R549, R550). -/
theorem execRefill_fails {h : Half} (hready : taskReady s = true) (hprod : s.prod = .filling h { addr := addr, pos := p })
    (hp : listens p = true) (hnext : readNext s.cfg p (cardAnswer s) = .done code) (hcode : code ≠ .ok) :
    exec .refill s = .next { s with
      refillErr := true, rerr := code, prod := .waiting, cs := false
      cursor := if h = .upper then nextCursor s.cfg s.cursor else s.cursor
      history := s.history ++ [.spi s.cs 0xFF (cardAnswer s), .cs false], env := cardTaken s } := by
  rw [execRefill_filling hprod hready, producerReadStep_eq, Reader.step_done_listens hp hnext, Reader.ends, finishRefill_eq]
  simp [hcode]

end

/-- Settles O59: the byte that rejects the command, and the last byte without a token, each end the fill with its code. -/
theorem refillErrorIsFlagged : Obligations.RefillErrorIsFlagged := by
  intro s h addr n hready ended
  refine ⟨fun hprod hends hne => ?_, fun hprod hne hlimit => ?_⟩
  · have hrejected : readNext s.cfg (.command (.poll n)) (cardAnswer s) = .done .ioCommandRejected := by
      rw [readNext, if_pos (pollEnds_iff.2 hends), if_neg (c := _ = r1Ready) hne]
    cases h <;> exact execRefill_fails hready hprod rfl hrejected nofun
  · have htimeout : readNext s.cfg (.token n) (cardAnswer s) = .done .ioDataTokenTimeout := by
      rw [readNext, if_neg (c := _ = dataToken) hne, if_pos hlimit]
    cases h <;> exact execRefill_fails hready hprod rfl htimeout nofun

end Sys2Proof.Machine
end

section
/-! SD_INIT run alone (R453 to R461): its ten wake-up bytes, and a budget of transfers that every later step spends from, so
that it ends for every card. -/

namespace Sys2Proof.Machine

open Sys2Proof.Safety

/-! ### SD_INIT under way -/

/-- The command engine is executing SD_INIT and is not preempted. -/
def Initializes (s : State) : Prop := ∃ c, s.cur = some c ∧ c.instr = .ok .sdInit ∧ taskReady s = true

section
variable {s : State} {bs rest : List Byte}

theorem initializes_setPos (h : Initializes s) (p : CmdPos) : Initializes (setPos p s) := by
  obtain ⟨c, hc, hi, hready⟩ := h
  exact ⟨{ c with pos := p }, by rw [setPos_of_cur hc], hi, hready⟩

theorem execSdInit_wake {c : Command} {k : Fin 10} (hc : s.cur = some c) (hi : c.instr = .ok .sdInit) (hp : c.pos = .wake k)
    (hready : taskReady s = true) : exec .sdInit s = .next (wakeStep k s) := by
  simp only [exec, execSdInit, onCommand_eq hc hready hi, hp]

theorem execSdInit_init {c : Command} {p : InitPos} (hc : s.cur = some c) (hi : c.instr = .ok .sdInit) (hp : c.pos = .init p)
    (hready : taskReady s = true) : exec .sdInit s = .next (initStep p s) := by
  simp only [exec, execSdInit, onCommand_eq hc hready hi, hp]

theorem Initializes.exec_wake (h : Initializes s) (k : Fin 10) :
    exec .sdInit (setPos (.wake k) s) = .next (wakeStep k (setPos (.wake k) s)) := by
  obtain ⟨c, hc, hi, hready⟩ := h
  exact execSdInit_wake (c := { c with pos := .wake k }) (by rw [setPos_of_cur hc]) hi rfl hready

theorem Initializes.exec_init (h : Initializes s) (p : InitPos) :
    exec .sdInit (setPos (.init p) s) = .next (initStep p (setPos (.init p) s)) := by
  obtain ⟨c, hc, hi, hready⟩ := h
  exact execSdInit_init (c := { c with pos := .init p }) (by rw [setPos_of_cur hc]) hi rfl hready

theorem setPos_setPos (p q : CmdPos) (s : State) : setPos p (setPos q s) = setPos p s := by
  cases hc : s.cur <;> simp [setPos, hc]

/-! ### The wake-up bytes -/

/-- The position of SD_INIT once it has sent `k` wake-up bytes (R454, R455). -/
def wakePos (k : Nat) : CmdPos := if h : k < 10 then .wake ⟨k, h⟩ else .init (.command .goIdle (.frame 0))

theorem wakePos_of_lt {k : Nat} (h : k < 10) : wakePos k = .wake ⟨k, h⟩ := dif_pos h

/-- A wake-up byte is sent, whatever position the state had (R454). -/
theorem wakeStep_setPos (k : Fin 10) (p : CmdPos) (s : State) :
    wakeStep k (setPos p s) = setPos (wakePos (k.val + 1)) (recv s) := by
  have hstep : wakeStep k (setPos p s) = setPos (wakePos (k.val + 1)) (setPos p (recv s)) := by
    unfold wakeStep wakePos
    split <;> rfl
  rw [hstep, setPos_setPos]

/-- `n` wake-up bytes after the first `k`, for every card. -/
theorem Initializes.run_wake (h : Initializes s) {k n : Nat} (hn : k + n ≤ 10) :
    runInstr .sdInit n (setPos (wakePos k) s) = .next (setPos (wakePos (k + n)) (recv^[n] s)) := by
  induction n generalizing k s with
  | zero => rfl
  | succ n ih =>
    have hk : k < 10 := by omega
    have hrest : Initializes (recv s) := h
    rw [wakePos_of_lt hk, runInstr_succ (h.exec_wake ⟨k, hk⟩), wakeStep_setPos,
      ih (k := k + 1) hrest (by omega), Function.iterate_succ_apply, Nat.add_right_comm, Nat.add_assoc]

/-- SD_INIT past its checks, with the slow divisor set and the card deselected (R453, R454). -/
def wakeStart (s : State) : State :=
  selectCard false { s with div := nearestOf s.cfg.supportedDivisors s.cfg.slowDivisor }

/-- The decode step of an SD_INIT that starts is the step of its first wake-up byte (R453, R454). -/
theorem runInstr_sdInit_wakes {c : Command} (h : Accepted 0x10 c s) (hfree : SpiFree s) (hcard : s.card = .uninitialized) :
    Initializes (wakeStart s) ∧
      runInstr .sdInit 10 s =
        .next (setPos (.init (.command .goIdle (.frame 0))) (recv^[10] (wakeStart s))) := by
  have hdecoding : Decoding .sdInit c s := .of_accepted h rfl
  have hstart : Initializes (wakeStart s) := ⟨c, hdecoding.cur, hdecoding.instr, hdecoding.ready⟩
  have hfirst : exec .sdInit s = exec .sdInit (setPos (.wake 0) (wakeStart s)) := by
    have hdecode : exec .sdInit s = .next (sdInitDecode s) := execSdInit_decoding hdecoding
    have hwake : wakeStep 0 (wakeStart s) = wakeStep 0 (setPos (.wake 0) (wakeStart s)) := by
      rw [wakeStep_setPos]
      rfl
    rw [hdecode, sdInitDecode_of_free hfree, if_pos hcard, hstart.exec_wake, ← hwake]
    rfl
  exact ⟨hstart, (runInstr_congr hfirst (by omega)).trans (hstart.run_wake (k := 0) le_rfl)⟩

/-- The card answers with the bytes given (R421). -/
theorem recv_iterate_eq (h : s.env.cardIn = bs ++ rest) : recv^[bs.length] s = answered (heard s.cs bs) s := by
  induction bs generalizing s with
  | nil => exact answered_nil.symm
  | cons b bs ih =>
    have hrecv : recv s = answered [.spi s.cs filler b] s := by
      rw [recv, xfer_eq, cardAnswer_of_cons h]
    rw [List.length_cons, Function.iterate_succ_apply, hrecv, ih (answered_single_cardIn h), heard, heard, List.map_cons,
      answered_cons (es := List.map _ bs)]
    rfl

end

/-- Settles O32: the ten steps are ten receptions after the deselection. -/
theorem wakeUpSendsTenFillerBytes : Obligations.WakeUpSendsTenFillerBytes := by
  intro s c answers rest h hfree hcard hin hlen
  obtain ⟨-, hrun⟩ := runInstr_sdInit_wakes h hfree hcard
  have hcur : (answered (heard false answers) (wakeStart s)).cur = some c := by
    obtain ⟨hcur, -⟩ := h
    exact hcur
  have hanswers : recv^[10] (wakeStart s) = answered (heard false answers) (wakeStart s) :=
    hlen ▸ recv_iterate_eq (s := wakeStart s) hin
  rw [hrun, hanswers, setPos_of_cur hcur]
  simp [answered, heard, wakeStart, selectCard, record, hin, hlen, filler]

/-! ### The budget of the initialization -/

/-- The most transfers that one command of SD_INIT takes before its reply: its frame and its poll (R450, R451). -/
def commandBudget (p : Params) : Nat := 6 + p.r1PollLimit

/-- The most transfers that are left of a command's frame and poll. -/
def sdBudget (p : Params) : SdPos → Nat
  | .frame k => 6 - k.val + p.r1PollLimit
  | .poll n => 1 + (p.r1PollLimit - (n + 1))

/-- The most transfers of the pairs of APP_CMD and SEND_OP_COND that are left when `used` of them have been sent (R457). -/
def retryBudget (p : Params) (used : Nat) : Nat := (p.opcondRetryLimit - used) * (2 * commandBudget p)

/-- The most transfers of READ_OCR and its reply (R458). -/
def ocrBudget (p : Params) : Nat := commandBudget p + 4

/-- The most transfers that follow the poll of a command of SD_INIT (R455 to R458). -/
def restBudget (p : Params) : InitCommand → Nat
  | .goIdle => commandBudget p + 4 + (retryBudget p 0 + ocrBudget p)
  | .ifCond => 4 + (retryBudget p 0 + ocrBudget p)
  | .appCmd used => commandBudget p + (retryBudget p (used + 1) + ocrBudget p)
  | .opCond used => retryBudget p (used + 1) + ocrBudget p
  | .readOcr => 4

/-- The most transfers that are left of SD_INIT. -/
def initBudget (p : Params) : InitPos → Nat
  | .command c q => sdBudget p q + restBudget p c
  | .ifCondReply k => 4 - k.val + (retryBudget p 0 + ocrBudget p)
  | .ocrReply k _ => 4 - k.val

section
variable {p : Params}

theorem r1PollLimit_pos (h : p.wf = true) : 1 ≤ p.r1PollLimit := by
  simp only [Params.wf, Bool.and_eq_true, decide_eq_true_eq] at h
  tauto

theorem opcondRetryLimit_pos (h : p.wf = true) : 1 ≤ p.opcondRetryLimit := by
  simp only [Params.wf, Bool.and_eq_true, decide_eq_true_eq] at h
  tauto

theorem retryBudget_of_lt {used : Nat} (h : used < p.opcondRetryLimit) :
    retryBudget p used = commandBudget p + commandBudget p + retryBudget p (used + 1) := by
  obtain ⟨left, hleft⟩ := Nat.exists_eq_add_of_lt h
  have hused : p.opcondRetryLimit - used = left + 1 := by omega
  have hnext : p.opcondRetryLimit - (used + 1) = left := by omega
  rw [retryBudget, retryBudget, hused, hnext, Nat.succ_mul, Nat.add_comm, Nat.two_mul]

theorem sdBudget_pos (q : SdPos) : 0 < sdBudget p q := by
  cases q <;> simp only [sdBudget] <;> omega

theorem initBudget_pos (q : InitPos) : 0 < initBudget p q := by
  cases q with
  | command c q => exact Nat.add_pos_left (sdBudget_pos q) _
  | ifCondReply k | ocrReply k => simp only [initBudget]; omega

theorem sdBudget_firstByte : sdBudget p (.frame 0) = commandBudget p := rfl

theorem sdBudget_afterFrameByte (h : 1 ≤ p.r1PollLimit) (k : Fin 6) :
    sdBudget p (afterFrameByte k) < sdBudget p (.frame k) := by
  unfold afterFrameByte
  split <;> simp only [sdBudget] <;> omega

/-- A poll that goes on is below its limit (R451). -/
theorem sdBudget_poll_succ {n : Nat} (h : n + 1 < p.r1PollLimit) : sdBudget p (.poll (n + 1)) < sdBudget p (.poll n) := by
  simp only [sdBudget]
  omega

/-- The whole of SD_INIT after its wake-up bytes. -/
theorem initBudget_start :
    initBudget p (.command .goIdle (.frame 0)) =
      3 * (6 + p.r1PollLimit) + 8 + p.opcondRetryLimit * (2 * (6 + p.r1PollLimit)) := by
  simp only [initBudget, restBudget, sdBudget_firstByte, ocrBudget, retryBudget, commandBudget, Nat.sub_zero]
  omega

end

/-! ### A step of the initialization -/

/-- What SD_INIT leaves unchanged, as far as its end speaks of it (R453). -/
structure InitKeeps (s t : State) : Prop where
  cfg : t.cfg = s.cfg := by rfl
  ring : t.ring = s.ring := by rfl
  scratch : t.scratch = s.scratch := by rfl
  rx : t.rx = s.rx := by rfl

/-- SD_INIT has ended, and the card is in the state that its result says (R460, R461). -/
structure InitEnded (s t : State) : Prop where
  cur : t.cur = none := by rfl
  busy : t.busy = false := by rfl
  cs : t.cs = false := by rfl
  ready : t.result = .ok → t.card.ready = true
  failed : t.result ≠ .ok → t.card = .failed
  keeps : InitKeeps s t := by exact {}

/-- What a step of the initialization at position `p` comes to: another position with a smaller budget, or the end. -/
inductive InitOutcome (p : InitPos) (s : State) : State → Prop
  | goesOn (q : InitPos) (u : State) : initBudget s.cfg q < initBudget s.cfg p → Initializes u → InitKeeps s u →
      InitOutcome p s (setPos (.init q) u)
  | ends (t : State) : InitEnded s t → InitOutcome p s t

section
variable {s t u : State} {p q : InitPos}

theorem InitKeeps.trans (h : InitKeeps s t) (h' : InitKeeps t u) : InitKeeps s u where
  cfg := h'.cfg.trans h.cfg
  ring := h'.ring.trans h.ring
  scratch := h'.scratch.trans h.scratch
  rx := h'.rx.trans h.rx

theorem InitEnded.after (h : InitKeeps s t) (h' : InitEnded t u) : InitEnded s u :=
  { h' with keeps := h.trans h'.keeps }

theorem classify_ready (o : Byte) : (classify o).ready = true := by
  unfold classify
  split <;> rfl

theorem InitOutcome.recv_goesOn (h : Initializes s) (hbudget : initBudget s.cfg q < initBudget s.cfg p) :
    InitOutcome p s (setPos (.init q) (recv s)) :=
  .goesOn q (recv s) hbudget h {}

theorem InitOutcome.recv_fails {code : ResultCode} (hcode : code ≠ .ok) : InitOutcome p s (failInit code (recv s)) :=
  .ends _ { ready := fun hok => absurd hok hcode, failed := fun _ => rfl }

theorem InitOutcome.recv_succeeds (o : Byte) : InitOutcome p s (finishInit o (recv s)) :=
  .ends _ { ready := fun _ => classify_ready o, failed := fun hne => absurd rfl hne }

/-- The next command costs no more than the poll's command had left, and the poll's last byte is spent (R455 to R458). -/
theorem initResponse_outcome (h : Initializes s) (ic : InitCommand) (n : Nat) (r : Byte) :
    InitOutcome (.command ic (.poll n)) s (initResponse ic r (recv s)) := by
  have hpos : 0 < sdBudget s.cfg (.poll n) := sdBudget_pos _
  cases ic with
  | goIdle =>
    simp only [initResponse]
    split
    · exact .recv_goesOn h (by simp only [initBudget, restBudget, sdBudget_firstByte]; omega)
    · exact .recv_fails nofun
  | ifCond =>
    simp only [initResponse]
    split
    · exact .recv_goesOn h (by simp only [initBudget, restBudget, Fin.val_zero]; omega)
    · exact .recv_fails nofun
  | appCmd used =>
    exact .recv_goesOn h (by simp only [initBudget, restBudget, sdBudget_firstByte]; omega)
  | opCond used =>
    simp only [initResponse]
    split_ifs with hready hretry
    · exact .recv_goesOn h (by simp only [initBudget, restBudget, sdBudget_firstByte, ocrBudget]; omega)
    · have hretries : retryBudget s.cfg (used + 1) = _ := retryBudget_of_lt hretry
      exact .recv_goesOn h (by simp only [initBudget, restBudget, sdBudget_firstByte]; omega)
    · exact .recv_fails nofun
  | readOcr =>
    simp only [initResponse]
    split
    · exact .recv_goesOn h (by simp only [initBudget, restBudget, Fin.val_zero]; omega)
    · exact .recv_fails nofun

/-- Every step of the initialization spends from its budget, or ends it (R453). -/
theorem initStep_outcome (hwf : s.cfg.wf = true) (h : Initializes s) (p : InitPos) : InitOutcome p s (initStep p s) := by
  cases p with
  | command ic q =>
    cases q with
    | frame k =>
      have hbudget : initBudget s.cfg (.command ic (afterFrameByte k)) < initBudget s.cfg (.command ic (.frame k)) :=
        Nat.add_lt_add_right (sdBudget_afterFrameByte (r1PollLimit_pos hwf) k) _
      simp only [initStep, selectBefore]
      split <;> exact .goesOn _ _ hbudget h {}
    | poll n =>
      cases hends : pollEnds s.cfg n (cardAnswer s) with
      | true =>
        rw [initStep_poll_ends hends]
        exact initResponse_outcome h ic n _
      | false =>
        have hmore : n + 1 < s.cfg.r1PollLimit := by
          rw [← Bool.not_eq_true, pollEnds_iff] at hends
          omega
        rw [initStep_poll_goesOn hends]
        exact .recv_goesOn h (Nat.add_lt_add_right (sdBudget_poll_succ hmore) _)
  | ifCondReply k =>
    simp only [initStep]
    split_ifs with hmore hpattern
    · exact .recv_goesOn h (by simp only [initBudget]; omega)
    · have hretries : retryBudget s.cfg 0 = _ := retryBudget_of_lt (opcondRetryLimit_pos hwf)
      exact .recv_goesOn h (by simp only [initBudget, restBudget, sdBudget_firstByte]; omega)
    · exact .recv_fails nofun
  | ocrReply k o =>
    simp only [initStep]
    split
    · exact .recv_goesOn h (by simp only [initBudget]; omega)
    · exact .recv_succeeds _

/-! ### The run -/

/-- From every position SD_INIT ends within its budget. -/
theorem exists_run_initEnded (hwf : s.cfg.wf = true) (h : Initializes s) (p : InitPos) :
    ∃ n t, n ≤ initBudget s.cfg p ∧ runInstr .sdInit n (setPos (.init p) s) = .next t ∧ InitEnded s t := by
  induction hb : initBudget s.cfg p using Nat.strong_induction_on generalizing s p with
  | _ b ih =>
    subst hb
    have hfirst : ∀ {n t}, initStep p (setPos (.init p) s) = t →
        runInstr .sdInit (n + 1) (setPos (.init p) s) = runInstr .sdInit n t :=
      fun ht => runInstr_succ (ht ▸ h.exec_init p)
    have hkept : InitKeeps s (setPos (.init p) s) := {}
    have houtcome := initStep_outcome (s := setPos (.init p) s) hwf (initializes_setPos h (.init p)) p
    generalize ht : initStep p (setPos (.init p) s) = t at houtcome
    cases houtcome with
    | goesOn q u hless hu hkeeps =>
      have hcfg : u.cfg = s.cfg := hkeeps.cfg
      obtain ⟨n, t, hn, hrun, hended⟩ := ih _ hless (hcfg ▸ hwf) hu q (by rw [hcfg]; rfl)
      exact ⟨n + 1, t, Nat.lt_of_le_of_lt hn hless, (hfirst ht).trans hrun, hended.after (hkept.trans hkeeps)⟩
    | ends t hended => exact ⟨1, t, initBudget_pos p, hfirst ht, hended.after hkept⟩

/-- Receiving any number of bytes leaves SD_INIT under way. -/
theorem initializes_recv_iterate (h : Initializes s) (n : Nat) : Initializes (recv^[n] s) ∧ InitKeeps s (recv^[n] s) := by
  induction n generalizing s with
  | zero => exact ⟨h, {}⟩
  | succ n ih =>
    obtain ⟨hinit, hkeeps⟩ := ih (s := recv s) h
    exact ⟨hinit, InitKeeps.trans {} hkeeps⟩

end

/-- Settles O36: ten wake-up bytes, then the budget of the initialization. -/
theorem sdInitAlwaysEnds : Obligations.SdInitAlwaysEnds := by
  intro s c h hfree hcard hwf
  obtain ⟨hstart, hwakes⟩ := runInstr_sdInit_wakes h hfree hcard
  obtain ⟨hinit, hkeeps⟩ := initializes_recv_iterate hstart 10
  generalize recv^[10] (wakeStart s) = u at hwakes hinit hkeeps
  have hcfg : u.cfg = s.cfg := hkeeps.cfg
  obtain ⟨n, t, hn, hrun, hended⟩ := exists_run_initEnded (hcfg ▸ hwf) hinit (.command .goIdle (.frame 0))
  obtain ⟨hcur, hbusy, hcs, hready, hfailed, hkept⟩ := hended.after (InitKeeps.trans (s := s) {} hkeeps)
  rw [hcfg, initBudget_start] at hn
  exact ⟨10 + n, t, by omega, (runInstr_add hwakes).trans hrun, hcur, hbusy, hcs, hready, hfailed, hkept.ring,
    hkept.scratch, hkept.rx⟩

end Sys2Proof.Machine
end

section
/-! I2C primitives that complete (R500 to R503, R537): for a command that is one primitive, and inside the handler before its
exit. -/

namespace Sys2Proof.Machine

open Sys2Proof.Safety

/-- The one primitive of a command completes, and ends the command whatever the ACK bit is (R500 to R503). -/
theorem singlePrim_completes {s : State} {c : Command} {i : Instr} {opc : Byte} {ack : Bool} (h : UnderWay opc .i2c c s)
    (hi : decodeOpcode opc c.data8 = some i) (hack : i2cAnswer s = .completes ack) (needs : Bool) (prim : I2cPrim) :
    singlePrim i needs prim s = .next { s with
      i2cOpen := openAfter prim s.i2cOpen, history := s.history ++ [primEvent prim ack], env := i2cTaken s
      result := .ok, busy := false, cur := none } := by
  obtain ⟨hc, hopc, hreserved, hp, hready⟩ := h
  have hinstr : c.instr = .ok i := Command.instr_eq hreserved (hopc ▸ hi)
  simp only [singlePrim, onCommand_eq hc hready hinstr, hp, singlePrimStep, i2cStep, hack, completePrim_eq]
  rfl

/-- Settles O45: the three commands are one primitive each. -/
theorem i2cCommandsComplete : Obligations.I2cCommandsComplete := by
  intro s c ack hack
  exact ⟨fun h => singlePrim_completes h rfl hack false .start,
    fun h => singlePrim_completes h rfl hack true (.write c.data8),
    fun h => singlePrim_completes h rfl hack true .stop⟩

/-- The five primitives of a frame before its STOP: the event of each, and that only the START writes `I2C_OPEN` (R500, R505). -/
theorem dacFrame_before_stop (p : Params) (v : Byte) (ack : Bool) {k : Fin 7} (hk : k.val < 5) :
    ∃ prim, (dacFrame p v)[k.val]? = some prim ∧
      [Event.i2cStart, .i2cByte (p.dacAddr ++ (0 : BitVec 1)) ack, .i2cByte p.dacCmd ack, .i2cByte v ack,
        .i2cByte p.dacLow ack][k.val]? = some (primEvent prim ack) ∧
      ∀ o, openAfter prim o = if k = 0 then true else o := by
  obtain rfl | rfl | rfl | rfl | rfl : k = 0 ∨ k = 1 ∨ k = 2 ∨ k = 3 ∨ k = 4 := by omega
  all_goals exact ⟨_, rfl, rfl, fun _ => rfl⟩

/-- Settles O54: the frame of every step of the consumer, and the completions inside the handler. -/
theorem handlerLeavesTheTasks : Obligations.HandlerLeavesTheTasks := by
  refine ⟨fun s t h => (exec_tick_effect h).frame.frame, fun s ack hin hk hack => ?_⟩
  obtain ⟨prim, hprim, hevent, hopen⟩ := dacFrame_before_stop s.cfg s.hsample ack hk
  refine ⟨primEvent prim ack, hevent, ?_⟩
  rw [execTick_prim hin hprim hack, if_neg hk.ne, primDone, hopen]
  rfl

end Sys2Proof.Machine
end

section
/-! The DAC frame that the command engine sends (R505), for DAC_WRITE (R506) and for PB_STOP (R532): its six primitives one by
one, and the sample that the history shows. -/

namespace Sys2Proof.Machine

open Sys2Proof.Safety

/-! ### The frame, primitive by primitive -/

/-- The commands that send a DAC frame, with its sample (R505). -/
inductive FrameCommand (p : Params) : Instr → Byte → Prop
  | dacWrite (v : Byte) : FrameCommand p (.dacWrite v) v
  | pbStop : FrameCommand p .pbStop p.silenceSample

/-- The command engine is executing a command that sends the frame of the sample `v`, and is not preempted. -/
def SendsFrame (i : Instr) (v : Byte) (s : State) : Prop :=
  FrameCommand s.cfg i v ∧ ∃ c, s.cur = some c ∧ c.instr = .ok i ∧ taskReady s = true

/-- A primitive has completed (R500). -/
def primSent (prim : I2cPrim) (ack : Bool) (s : State) : State := completePrim prim ack (takeI2cAnswer s)

/-- The primitives `prims` have completed with `acks`, one after the other. -/
def primsSent : List I2cPrim → List Bool → State → State
  | prim :: prims, ack :: acks, s => primsSent prims acks (primSent prim ack s)
  | _, _, s => s

section
variable {i : Instr} {v : Byte} {s : State} {prim : I2cPrim} {ack : Bool} {acks : List Bool} {rest : List I2cAnswer}

theorem primSent_eq (prim : I2cPrim) (ack : Bool) (s : State) :
    primSent prim ack s = { s with
      i2cOpen := openAfter prim s.i2cOpen, history := s.history ++ [primEvent prim ack], env := i2cTaken s } := by
  rw [primSent, completePrim_eq]
  rfl

theorem primSent_setPos (prim : I2cPrim) (ack : Bool) (p : CmdPos) (s : State) :
    primSent prim ack (setPos p s) = setPos p (primSent prim ack s) := by
  simp only [primSent_eq]
  rfl

theorem sendsFrame_primSent (h : SendsFrame i v s) (prim : I2cPrim) (ack : Bool) :
    SendsFrame i v (primSent prim ack s) := by
  rw [primSent_eq]
  exact h

/-- The completion of primitive `k`, of a command that waits for it (R505). -/
theorem SendsFrame.exec_dac (h : SendsFrame i v s) {k : Fin 6} (hprim : (dacFrame s.cfg v)[k.val]? = some prim)
    (hack : i2cAnswer s = .completes ack) :
    exec i (setPos (.dac k) s) = .next (afterDacPrim k (setPos (.dac k) (primSent prim ack s))) := by
  obtain ⟨hsends, c, hc, hi, hready⟩ := h
  have hstep : exec i (setPos (.dac k) s) = commandDacStep v k (setPos (.dac k) s) := by
    have hcur : (setPos (.dac k) s).cur = some { c with pos := .dac k } := by rw [setPos_cur, hc, Option.map_some]
    cases hsends with
    | dacWrite => exact onCommand_eq hcur hready hi
    | pbStop => exact onCommand_eq hcur hready hi
  have hack' : i2cAnswer (setPos (.dac k) s) = .completes ack := hack
  simp only [hstep, commandDacStep, setPos_cfg, hprim, i2cStep, hack', ← primSent_setPos]
  rfl

/-- The completions of the frame from primitive `k` on (R505, R506). -/
theorem SendsFrame.run (h : SendsFrame i v s) {k : Nat} (hk : k < 6) (hlen : k + acks.length = 6)
    (hacks : s.env.i2cIn = acks.map .completes ++ rest) :
    runInstr i acks.length (setPos (.dac ⟨k, hk⟩) s) =
      .next (finish .ok (primsSent ((dacFrame s.cfg v).drop k) acks s)) := by
  induction acks generalizing k s with
  | nil =>
    rw [List.length_nil] at hlen
    omega
  | cons ack acks ih =>
    rw [List.length_cons] at hlen ⊢
    have hprim : (dacFrame s.cfg v)[k]? = some (dacFrame s.cfg v)[k] := List.getElem?_eq_getElem hk
    rw [runInstr_succ (h.exec_dac (k := ⟨k, hk⟩) hprim (i2cAnswer_of_cons hacks)),
      List.drop_eq_getElem_cons (l := dacFrame s.cfg v) hk, primsSent, afterDacPrim]
    obtain rfl | hmore : k = 5 ∨ k + 1 < 6 := by omega
    · obtain rfl : acks = [] := List.length_eq_zero_iff.1 (by omega)
      rfl
    · have hrest : (primSent (dacFrame s.cfg v)[k] ack s).env.i2cIn = acks.map .completes ++ rest := by
        rw [primSent_eq]
        exact congrArg List.tail hacks
      have hcfg : (primSent (dacFrame s.cfg v)[k] ack s).cfg = s.cfg := by rw [primSent_eq]
      rw [dif_pos hmore, setPos_setPos, ih (sendsFrame_primSent h _ _) hmore (by omega) hrest, hcfg]

end

/-! ### The whole frame -/

/-- A command has ended OK with the frame of the sample `v` on the bus (R505, R506, R532). -/
def frameSent (v : Byte) (acks : List Bool) (s : State) : State :=
  { s with
    i2cOpen := false
    history := s.history ++ List.zipWith primEvent (dacFrame s.cfg v) acks
    env := { s.env with i2cIn := s.env.i2cIn.drop acks.length, i2cCount := s.env.i2cCount + acks.length }
    result := .ok, busy := false, cur := none }

section
variable {i : Instr} {v : Byte} {s : State} {acks : List Bool} {rest : List I2cAnswer}

theorem finish_primsSent_dacFrame (v : Byte) (s : State) (hlen : acks.length = 6) :
    finish .ok (primsSent (dacFrame s.cfg v) acks s) = frameSent v acks s := by
  have hdrop : s.env.i2cIn.drop 6 = s.env.i2cIn.tail.tail.tail.tail.tail.tail := by
    simp only [← List.drop_one, List.drop_drop]
  match acks, hlen with
  | [_, _, _, _, _, _], _ => simp [primsSent, dacFrame, primSent_eq, openAfter, finish, frameSent, i2cTaken, hdrop]

theorem SendsFrame.run_whole (h : SendsFrame i v s) (hlen : acks.length = 6)
    (hacks : s.env.i2cIn = acks.map .completes ++ rest) :
    runInstr i 6 (setPos (.dac 0) s) = .next (frameSent v acks s) := by
  have hrun := h.run (k := 0) (by omega) (by omega) hacks
  rwa [hlen, List.drop_zero, finish_primsSent_dacFrame v s hlen] at hrun

/-- The frame shows its sample (R505). -/
theorem emitted_frameSent (v : Byte) (s : State) (hlen : acks.length = 6) :
    emitted (frameSent v acks s) = emitted s ++ [v] := by
  have hframe : ∀ acc, emittedFrom s.cfg acc (List.zipWith primEvent (dacFrame s.cfg v) acks) = [v] := fun acc => by
    rw [← List.append_nil (List.zipWith _ _ _), emittedFrom_dacFrame _ _ _ _ hlen, emittedFrom]
  exact (emittedFrom_append _ _ _ _).trans (congrArg _ (hframe _))

end

/-- Settles O48: the frame starts in the decode step, and the sample is the command's operand. -/
theorem dacWriteEmitsItsSample : Obligations.DacWriteEmitsItsSample := by
  intro s c a0 a1 a2 a3 a4 a5 rest h hpl hopen hin
  have hdecoding : Decoding (.dacWrite c.data8) c s := .of_accepted h rfl
  have hsends : SendsFrame (.dacWrite c.data8) c.data8 s :=
    ⟨.dacWrite _, c, hdecoding.cur, hdecoding.instr, hdecoding.ready⟩
  obtain ⟨-, -, -, hdecode⟩ := i2cCommandsDecode s c hpl
  obtain ⟨hinstr, hexec⟩ := hdecode h
  rw [if_neg (by simp [hopen])] at hexec
  have hrun := hsends.run_whole (acks := [a0, a1, a2, a3, a4, a5]) rfl hin
  rw [setPos_of_cur hdecoding.cur] at hrun
  refine ⟨hinstr, hexec, _, (runInstr_succ hexec).trans hrun, ?_, emitted_frameSent _ s rfl⟩
  simp only [frameSent, hin, hopen]
  rfl

/-- Playback is off, and with it the latch (R532). -/
def stopped (s : State) : State := { s with playing := false, tickLatch := false }

theorem execPbStop_playing {s : State} {c : Command} (h : Decoding .pbStop c s) (hpl : s.playing = true) :
    exec .pbStop s = .next (setPos (.dac 0) (stopped s)) := by
  refine (execPbStop_decoding h).trans ?_
  rw [pbStopDecode, if_pos hpl]
  rfl

/-- Settles O50: while playing the decode step turns playback off and starts the frame of the silence sample. -/
theorem pbStopEmitsSilence : Obligations.PbStopEmitsSilence := by
  intro s c h
  have hdecoding : Decoding .pbStop c s := .of_accepted h rfl
  refine ⟨hdecoding.instr, fun hpl => (execPbStop_decoding hdecoding).trans ?_, fun hpl => ?_⟩
  · rw [pbStopDecode, if_neg (by simp [hpl])]
    rfl
  · have hexec := execPbStop_playing hdecoding hpl
    have hsends : SendsFrame .pbStop s.cfg.silenceSample (stopped s) := by
      obtain ⟨hin, -⟩ := taskReady_eq_true.1 hdecoding.ready
      exact ⟨.pbStop, c, hdecoding.cur, hdecoding.instr, taskReady_eq_true.2 ⟨hin, nofun⟩⟩
    refine ⟨?_, fun a0 a1 a2 a3 a4 a5 rest hin => ?_⟩
    · rw [hexec, setPos_of_cur (s := stopped s) hdecoding.cur]
      rfl
    · have hrun := hsends.run_whole (acks := [a0, a1, a2, a3, a4, a5]) rfl hin
      refine ⟨_, (runInstr_succ hexec).trans hrun, ?_, emitted_frameSent _ _ rfl⟩
      simp only [frameSent, stopped, hin]
      rfl

end Sys2Proof.Machine
end

section
/-! The ACK bit is recorded and never read (R500, R502): every operation, run with the opposite ACK bit in the oracle's answer,
comes to the same outcome but for the bit in the history. One that completes no primitive does so whatever the answers are. -/

namespace Sys2Proof.Machine

open Sys2Proof.Safety

/-- `s` with other answers of the I2C oracle to come. -/
def withI2cIn (q : List I2cAnswer) (s : State) : State := { s with env := { s.env with i2cIn := q } }

/-- `t'` is `t` but for the ACK bits of the history and for the environment. -/
inductive SameButAck (t : State) : State → Prop
  | mk (es : List Event) (e : Env) (h : es.map forgetAck = t.history.map forgetAck := by rfl) :
      SameButAck t { t with history := es, env := e }

/-- Two outcomes of the same kind, with next states that are the same but for ACK bits. -/
inductive SameOutcomeButAck : Outcome → Outcome → Prop
  | next {t t' : State} : SameButAck t t' → SameOutcomeButAck (.next t) (.next t')
  | fault (f : Fault) : SameOutcomeButAck (.fault f) (.fault f)
  | refused (r : Refusal) : SameOutcomeButAck (.refused r) (.refused r)

theorem SameOutcomeButAck.ite {p : Prop} [Decidable p] {o₁ o₁' o₂ o₂' : Outcome} (h₁ : SameOutcomeButAck o₁ o₁')
    (h₂ : SameOutcomeButAck o₂ o₂') : SameOutcomeButAck (if p then o₁ else o₂) (if p then o₁' else o₂') := by
  split
  exacts [h₁, h₂]

theorem SameButAck.ite {p : Prop} [Decidable p] {t₁ t₁' t₂ t₂' : State} (h₁ : SameButAck t₁ t₁')
    (h₂ : SameButAck t₂ t₂') : SameButAck (if p then t₁ else t₂) (if p then t₁' else t₂') := by
  split
  exacts [h₁, h₂]

/-! ### What follows the completion of a primitive -/

section
variable {t t' : State}

theorem completePrim_sameButAck (prim : I2cPrim) (ack ack' : Bool) (s : State) :
    SameButAck (completePrim prim ack s) (completePrim prim ack' s) := by
  have hevent : forgetAck (primEvent prim ack') = forgetAck (primEvent prim ack) := by cases prim <;> rfl
  rw [completePrim_eq, completePrim_eq]
  exact .mk _ _ (by simp only [List.map_append, List.map_singleton, hevent])

theorem SameButAck.finish (h : SameButAck t t') (code : ResultCode) : SameButAck (finish code t) (finish code t') := by
  cases h with
  | mk _ _ hes => exact .mk _ _ hes

theorem SameButAck.afterDacPrim (h : SameButAck t t') (k : Fin 6) :
    SameButAck (afterDacPrim k t) (afterDacPrim k t') := by
  cases h with
  | mk _ _ hes =>
    unfold Machine.afterDacPrim
    split <;> exact .mk _ _ hes

theorem SameButAck.signal (h : SameButAck t t') (hf : Half) : SameButAck (signal hf t) (signal hf t') := by
  cases h with
  | mk _ _ hes =>
    rw [signal_eq, signal_eq]
    exact .mk _ _ (by simp only [List.map_append, hes])

theorem SameButAck.exitHandler (h : SameButAck t t') : SameButAck (exitHandler t) (exitHandler t') := by
  have hadvance : ∀ i,
      SameButAck { t with inHandler := false, playIndex := i } { t' with inHandler := false, playIndex := i } := by
    cases h with
    | mk _ _ hes => exact fun _ => .mk _ _ hes
  have hindex : t'.playIndex = t.playIndex := by cases h; rfl
  simp only [exitHandler_eq, advancePlayIndex, hindex]
  exact .ite ((hadvance _).signal _) (.ite ((hadvance _).signal _) (hadvance _))

theorem SameButAck.handlerAdvance (h : SameButAck t t') : SameButAck (handlerAdvance t) (handlerAdvance t') := by
  have hnext : SameButAck { t with hpos := t.hpos + 1 } { t' with hpos := t'.hpos + 1 } := by
    cases h with
    | mk _ _ hes => exact .mk _ _ hes
  have hpos : t'.hpos = t.hpos := by cases h; rfl
  simp only [Machine.handlerAdvance, hpos] at hnext ⊢
  exact .ite hnext.exitHandler hnext

end

section
variable (q : List I2cAnswer) (s : State)

@[simp] theorem withI2cIn_cur : (withI2cIn q s).cur = s.cur := rfl
@[simp] theorem withI2cIn_prod : (withI2cIn q s).prod = s.prod := rfl
@[simp] theorem withI2cIn_pending : (withI2cIn q s).pending = s.pending := rfl
@[simp] theorem withI2cIn_cfg : (withI2cIn q s).cfg = s.cfg := rfl
@[simp] theorem withI2cIn_hsample : (withI2cIn q s).hsample = s.hsample := rfl
@[simp] theorem withI2cIn_hpos : (withI2cIn q s).hpos = s.hpos := rfl
@[simp] theorem withI2cIn_turn : (withI2cIn q s).turn = s.turn := rfl
@[simp] theorem withI2cIn_taskReady : taskReady (withI2cIn q s) = taskReady s := rfl
@[simp] theorem withI2cIn_cardAnswer : cardAnswer (withI2cIn q s) = cardAnswer s := rfl

/-! ### Commands -/

theorem onCommand_withI2cIn (i : Instr) {body body' : Command → Outcome}
    (h : ∀ c, SameOutcomeButAck (body c) (body' c)) :
    SameOutcomeButAck (onCommand i s body) (onCommand i (withI2cIn q s) body') := by
  simp only [onCommand, withI2cIn_cur, withI2cIn_taskReady]
  cases s.cur with
  | none => exact .refused _
  | some c => exact .ite (h c) (.refused _)

theorem inDecodeStep_withI2cIn (i : Instr) {effect effect' : Command → State}
    (h : ∀ c, SameButAck (effect c) (effect' c)) :
    SameOutcomeButAck (inDecodeStep i s effect) (inDecodeStep i (withI2cIn q s) effect') :=
  onCommand_withI2cIn q s i fun c => .ite (.next (h c)) (.refused _)

theorem unlessSpiBusy_withI2cIn {t t' : State} (h : SameButAck t t') :
    SameButAck (unlessSpiBusy s t) (unlessSpiBusy (withI2cIn q s) t') :=
  .ite (.mk _ _) h

theorem execPbStart_withI2cIn : SameOutcomeButAck (execPbStart s) (execPbStart (withI2cIn q s)) :=
  inDecodeStep_withI2cIn q s _ fun _ => .ite (.mk _ _) (.ite (.mk _ _) (.ite (.mk _ _) (.mk _ _)))

/-! ### SD commands and the producer -/

theorem wakeStep_withI2cIn (sent : Fin 10) : SameButAck (wakeStep sent s) (wakeStep sent (withI2cIn q s)) := by
  unfold wakeStep
  split <;> exact .mk _ _

theorem initResponse_withI2cIn (c : InitCommand) (r : Byte) :
    SameButAck (initResponse c r s) (initResponse c r (withI2cIn q s)) := by
  cases c with
  | goIdle | ifCond | readOcr => exact .ite (.mk _ _) (.mk _ _)
  | appCmd used => exact .mk _ _
  | opCond used => exact .ite (.mk _ _) (.ite (.mk _ _) (.mk _ _))

theorem initStep_withI2cIn (p : InitPos) : SameButAck (initStep p s) (initStep p (withI2cIn q s)) := by
  cases p with
  | command c p =>
    cases p with
    | frame k =>
      simp only [initStep, selectBefore]
      split <;> exact .mk _ _
    | poll polled => exact .ite (initResponse_withI2cIn q (recv s) c (cardAnswer s)) (.mk _ _)
  | ifCondReply k =>
    simp only [initStep]
    split
    exacts [.mk _ _, .ite (.mk _ _) (.mk _ _)]
  | ocrReply k o =>
    simp only [initStep]
    split <;> exact .mk _ _

theorem readStep_withI2cIn (d : Dest) (offset length : Nat) (r : ReadSeq) :
    readStep d offset length r (withI2cIn q s) =
      ((readStep d offset length r s).1, withI2cIn q (readStep d offset length r s).2) := by
  simp only [readStep_eq, readTransfer_eq, withI2cIn_cfg, withI2cIn_cardAnswer]
  split <;> rfl

theorem commandReadStep_withI2cIn (c : Command) (r : ReadSeq) :
    SameButAck (commandReadStep c r s) (commandReadStep c r (withI2cIn q s)) := by
  simp only [commandReadStep, readStep_withI2cIn]
  rcases readStep .scratch c.offset c.length r s with ⟨p | code, t⟩ <;> exact .mk _ _

theorem producerReadStep_withI2cIn (h : Half) (r : ReadSeq) :
    SameButAck (producerReadStep h r s) (producerReadStep h r (withI2cIn q s)) := by
  simp only [producerReadStep, readStep_withI2cIn, finishRefill_eq]
  rcases readStep .ring (halfOffset h) halfSize r s with ⟨p | code, t⟩ <;> exact .mk _ _

theorem refillWake_withI2cIn : SameButAck (refillWake s) (refillWake (withI2cIn q s)) := by
  simp only [refillWake, withI2cIn_pending]
  cases s.pending with
  | none => exact .mk _ _
  | some h =>
    exact .ite (producerReadStep_withI2cIn q { s with sem := s.sem - 1, pending := none } h _) (.mk _ _)

theorem execSdInit_withI2cIn : SameOutcomeButAck (execSdInit s) (execSdInit (withI2cIn q s)) := by
  refine onCommand_withI2cIn q s _ fun c => ?_
  cases c.pos with
  | decode => exact .next (unlessSpiBusy_withI2cIn q s (.ite (wakeStep_withI2cIn q (selectCard false
      { s with div := nearestOf s.cfg.supportedDivisors s.cfg.slowDivisor }) 0) (.mk _ _)))
  | wake sent => exact .next (wakeStep_withI2cIn q s sent)
  | init p => exact .next (initStep_withI2cIn q s p)
  | read _ | i2c | dac _ => exact .refused _

theorem execSdRead_withI2cIn : SameOutcomeButAck (execSdRead s) (execSdRead (withI2cIn q s)) := by
  refine onCommand_withI2cIn q s _ fun c => ?_
  cases c.pos with
  | decode => exact .next (unlessSpiBusy_withI2cIn q s
      (.ite (.mk _ _) (.ite (commandReadStep_withI2cIn q s c _) (.mk _ _))))
  | read r => exact .next (commandReadStep_withI2cIn q s c r)
  | wake _ | init _ | i2c | dac _ => exact .refused _

theorem onInitWire_withI2cIn (i : Instr) : SameOutcomeButAck (onInitWire i s) (onInitWire i (withI2cIn q s)) := by
  simp only [onInitWire, withI2cIn_cur, withI2cIn_taskReady]
  cases s.cur with
  | none => exact .refused _
  | some c =>
    simp only
    cases c.pos with
    | init p => exact .ite (.next (initStep_withI2cIn q s p)) (.refused _)
    | decode | wake _ | read _ | i2c | dac _ => exact .refused _

theorem execRefill_withI2cIn : SameOutcomeButAck (execRefill s) (execRefill (withI2cIn q s)) := by
  simp only [execRefill, withI2cIn_taskReady, withI2cIn_prod]
  refine .ite ?_ (.refused _)
  cases s.prod with
  | waiting => exact .ite (.next (refillWake_withI2cIn q s)) (.refused _)
  | filling h r => exact .next (producerReadStep_withI2cIn q s h r)

theorem commandReadBlock_withI2cIn (addr : Word) :
    SameOutcomeButAck (commandReadBlock addr s) (commandReadBlock addr (withI2cIn q s)) := by
  simp only [commandReadBlock, withI2cIn_cur]
  cases s.cur with
  | none => exact .refused _
  | some c =>
    simp only
    cases c.pos with
    | read r => exact .ite (.next (commandReadStep_withI2cIn q s c r)) (.refused _)
    | decode | wake _ | init _ | i2c | dac _ => exact .refused _

theorem producerReadBlock_withI2cIn (addr : Word) :
    SameOutcomeButAck (producerReadBlock addr s) (producerReadBlock addr (withI2cIn q s)) := by
  simp only [producerReadBlock, withI2cIn_prod]
  cases s.prod with
  | waiting => exact .refused _
  | filling h r => exact .ite (.next (producerReadStep_withI2cIn q s h r)) (.refused _)

theorem execReadSingleBlock_withI2cIn (addr : Word) :
    SameOutcomeButAck (execReadSingleBlock addr s) (execReadSingleBlock addr (withI2cIn q s)) := by
  simp only [execReadSingleBlock, withI2cIn_taskReady, withI2cIn_turn]
  refine .ite ?_ (.refused _)
  cases s.turn with
  | cmd => exact commandReadBlock_withI2cIn q s addr
  | prod => exact producerReadBlock_withI2cIn q s addr
  | host _ | cons | tickSrc => exact .refused _

/-! ### Operations that complete a primitive -/

/-- The answers `q` are those of `s` with the opposite ACK bit in the first (R500). -/
def FlipsAck : Prop := ∃ ack rest, s.env.i2cIn = .completes ack :: rest ∧ q = .completes (!ack) :: rest

variable {q s} (h : FlipsAck q s)
include h

/-- The primitive completes with either answer, and the answers left are the same. -/
theorem i2cStep_flipsAck (prim : I2cPrim) :
    ∃ t t', i2cStep prim s = some t ∧ i2cStep prim (withI2cIn q s) = some t' ∧ SameButAck t t' := by
  obtain ⟨ack, rest, hin, rfl⟩ := h
  have htaken : takeI2cAnswer (withI2cIn (.completes (!ack) :: rest) s) = takeI2cAnswer s := by
    simp [takeI2cAnswer, withI2cIn, hin]
  exact ⟨_, _, i2cStep_eq_some.2 ⟨ack, i2cAnswer_of_cons hin, rfl⟩, i2cStep_eq_some.2 ⟨!ack, rfl, rfl⟩,
    htaken ▸ completePrim_sameButAck prim ack (!ack) (takeI2cAnswer s)⟩

theorem singlePrim_flipsAck (i : Instr) (needs : Bool) (prim : I2cPrim) :
    SameOutcomeButAck (singlePrim i needs prim s) (singlePrim i needs prim (withI2cIn q s)) := by
  refine onCommand_withI2cIn q s i fun c => ?_
  cases c.pos with
  | decode => exact .next (.ite (.mk _ _) (.ite (.mk _ _) (.mk _ _)))
  | i2c =>
    obtain ⟨t, t', ht, ht', hsame⟩ := i2cStep_flipsAck h prim
    simp only [singlePrimStep, ht, ht']
    exact .next (hsame.finish .ok)
  | wake _ | init _ | read _ | dac _ => exact .refused _

theorem commandDacStep_flipsAck (v : Byte) (k : Fin 6) :
    SameOutcomeButAck (commandDacStep v k s) (commandDacStep v k (withI2cIn q s)) := by
  simp only [commandDacStep, withI2cIn_cfg]
  cases (dacFrame s.cfg v)[k.val]? with
  | none => exact .refused _
  | some prim =>
    obtain ⟨t, t', ht, ht', hsame⟩ := i2cStep_flipsAck h prim
    simp only [ht, ht']
    exact .next (hsame.afterDacPrim k)

theorem execDacWrite_flipsAck (v : Byte) : SameOutcomeButAck (execDacWrite v s) (execDacWrite v (withI2cIn q s)) := by
  refine onCommand_withI2cIn q s _ fun c => ?_
  cases c.pos with
  | decode => exact .next (.ite (.mk _ _) (.ite (.mk _ _) (.mk _ _)))
  | dac k => exact commandDacStep_flipsAck h v k
  | wake _ | init _ | read _ | i2c => exact .refused _

theorem execPbStop_flipsAck : SameOutcomeButAck (execPbStop s) (execPbStop (withI2cIn q s)) := by
  refine onCommand_withI2cIn q s _ fun c => ?_
  cases c.pos with
  | decode => exact .next (.ite (.mk _ _) (.mk _ _))
  | dac k => exact commandDacStep_flipsAck h s.cfg.silenceSample k
  | wake _ | init _ | read _ | i2c => exact .refused _

theorem handlerStep_flipsAck : SameOutcomeButAck (handlerStep s) (handlerStep (withI2cIn q s)) := by
  simp only [handlerStep, withI2cIn_cfg, withI2cIn_hsample, withI2cIn_hpos]
  cases (dacFrame s.cfg s.hsample)[s.hpos.val]? with
  | none => exact .refused _
  | some prim =>
    obtain ⟨t, t', ht, ht', hsame⟩ := i2cStep_flipsAck h prim
    simp only [ht, ht']
    exact .next hsame.handlerAdvance

theorem execTick_flipsAck : SameOutcomeButAck (execTick s) (execTick (withI2cIn q s)) := by
  have henters : SameButAck (enterHandler s) (enterHandler (withI2cIn q s)) := by
    rw [enterHandler_eq, enterHandler_eq]
    exact .mk _ _
  exact .ite (handlerStep_flipsAck h) (.ite (.ite (.next henters) (.fault _)) (.refused _))

/-- Every instruction comes to the same outcome with the opposite ACK bit. -/
theorem exec_flipsAck (i : Instr) : SameOutcomeButAck (exec i s) (exec i (withI2cIn q s)) := by
  cases i with
  | nop | clrFlags => exact inDecodeStep_withI2cIn q s _ fun _ => .mk _ _
  | spiXfer _ | spiSend _ | spiRecv | spiSetDiv | spiSelect | spiDeselect =>
    exact inDecodeStep_withI2cIn q s _ fun _ => unlessSpiBusy_withI2cIn q s (.mk _ _)
  | sdInit => exact execSdInit_withI2cIn q s
  | sdRead => exact execSdRead_withI2cIn q s
  | i2cStart | i2cWrite _ | i2cStop => exact singlePrim_flipsAck h _ _ _
  | dacWrite v => exact execDacWrite_flipsAck h v
  | pbStart => exact execPbStart_withI2cIn q s
  | pbStop => exact execPbStop_flipsAck h
  | tick => exact execTick_flipsAck h
  | refill => exact execRefill_withI2cIn q s
  | goIdleState | sendIfCond | appCmd | sendOpCond | readOcr => exact onInitWire_withI2cIn q s _
  | readSingleBlock addr => exact execReadSingleBlock_withI2cIn q s addr

end

/-- Settles O47: the outcome of every operation is the same but for the ACK bit. -/
theorem nackActsAsAck : Obligations.NackActsAsAck := by
  intro s t ack rest i hin hexec
  have hsame := exec_flipsAck (q := .completes (!ack) :: rest) ⟨ack, rest, hin, rfl⟩ i
  rw [hexec] at hsame
  generalize ho : exec i (withI2cIn (.completes (!ack) :: rest) s) = o at hsame
  cases hsame with
  | next hsame =>
    cases hsame with
    | mk es e hes => exact ⟨_, ho, rfl, hes⟩

end Sys2Proof.Machine
end

section
/-! Playback seen from its agents (R535 to R547, R556): when none of them has a step, what one step of each comes to when it
has one, and so what is left to the host in a quiescent state. -/

namespace Sys2Proof.Machine

open Sys2Proof.Safety

/-! ### The tick source -/

/-- Settles O51: while stopped a tick has no effect; else it is latched, or lost behind the latched one. -/
theorem tickSourceLatchesOneTick : Obligations.TickSourceLatchesOneTick := by
  intro s hturn
  rw [step_of_turn_tickSrc hturn]
  refine ⟨fun hpl => ?_, fun hpl hlatch => ?_, fun hpl hlatch => ?_⟩
  · rw [tickSource, hpl]
    rfl
  · rw [tickSource_of_free hpl hlatch]
  · rw [tickSource_of_latched hpl hlatch]

/-! ### The consumer: entry -/

section
variable {s : State}

theorem enabled_of_refused {a : Turn} {r : Refusal} (h : agentStep (s.withTurn a) = .refused r) : enabled a s = false := by
  rw [enabled, h, takesStep]

/-- Outside the handler the consumer has no step without a tick latched during playback (R536). -/
theorem execTick_of_no_tick (hin : s.inHandler = false) (htick : ¬ (s.playing = true ∧ s.tickLatch = true)) :
    exec .tick s = .refused .noStep := by
  rw [← Bool.and_eq_true, Bool.not_eq_true] at htick
  simp [exec, execTick, hin, htick]

/-- The half of `PLAY_INDEX` is being filled (R120, R551). -/
theorem underrunNow_iff :
    underrunNow s = true ↔ ∃ r, s.prod = .filling (halfOf s.playIndex.toNat) r := by
  cases hprod : s.prod with
  | waiting => simp [underrunNow, hprod]
  | filling h r => simp [underrunNow, hprod, eq_comm]

/-- The exit signals, but it takes no tick and looks for no underrun (R538 to R540). -/
theorem handlerAdvance_tickLatch_underrun (s : State) :
    (handlerAdvance s).tickLatch = s.tickLatch ∧ (handlerAdvance s).underrun = s.underrun := by
  unfold handlerAdvance
  dsimp only
  split
  · simp only [exitHandler_eq, advancePlayIndex, signal_eq]
    split_ifs <;> exact ⟨rfl, rfl⟩
  · exact ⟨rfl, rfl⟩

end

/-- Settles O52: the entry and its underrun check, and that neither another state nor the running handler enters. -/
theorem tickEntersTheHandler : Obligations.TickEntersTheHandler := by
  refine ⟨fun s hpl hlatch hin hidx => ?_, fun s hin htick => ?_, fun s t hin h => ?_⟩
  · have hring : s.playIndex.toNat < ringSize := hidx
    rw [exec, execTick_of_tickWaits ⟨hpl, hlatch, hin⟩, if_pos hring, enterHandler_eq]
    exact ⟨fun hu => by simp [underrunNow_iff.2 hu], fun hu => by simp [mt underrunNow_iff.1 hu]⟩
  · exact ⟨execTick_of_no_tick hin htick, enabled_of_refused (execTick_of_no_tick (s := s.withTurn .cons) hin htick)⟩
  · cases exec_tick_effect h with
    | enters hout => simp [hin] at hout
    | completes prim ack =>
      rw [completePrim_eq]
      exact handlerAdvance_tickLatch_underrun _

/-! ### The consumer: exit -/

theorem crossedHalf_of_lt {i : Nat} (h : i < 400) :
    crossedHalf i = if i + 1 = 200 then some .lower else if i + 1 = 400 then some .upper else none := by
  have hlower : (i + 1) % 400 = 200 ↔ i + 1 = 200 := by omega
  have hupper : (i + 1) % 400 = 0 ↔ i + 1 = 400 := by omega
  simp only [crossedHalf, hlower, hupper]

/-- Settles O53: the STOP is primitive 5 of the frame, and the exit crosses into the next half or stays in its own. -/
theorem handlerExitAdvancesTheIndex : Obligations.HandlerExitAdvancesTheIndex := by
  intro s ack hin hpos hack hidx
  have hlast : s.hpos.val = 5 := congrArg Fin.val hpos
  have hprim : (dacFrame s.cfg s.hsample)[s.hpos.val]? = some .stop := by rw [hlast]; rfl
  refine ⟨_, execTick_prim hin hprim hack, ?_⟩
  rw [if_pos hlast, exitHandler_crossing (s := primDone .stop ack s) hidx, crossingEvents, ← crossedHalf_of_lt hidx]
  have hindex : (primDone .stop ack s).playIndex = s.playIndex := rfl
  have hpending : (primDone .stop ack s).pending = s.pending := rfl
  rw [hindex, hpending]
  cases crossedHalf s.playIndex.toNat <;> simp [primDone, openAfter, primEvent, i2cTaken]

/-! ### The producer: the wake -/

section
variable {s : State} {h : Half}

theorem execRefill_wakes (hprod : s.prod = .waiting) (hsem : 0 < s.sem) (hready : taskReady s = true)
    (hspi : spiRunning s = false) : exec .refill s = .next (refillWake s) := by
  simp only [exec, execRefill, hready, hprod, hsem, hspi, and_self, if_true]

/-- A wake without a request (R546). -/
theorem refillWake_spurious (hpending : s.pending = none) : refillWake s = { s with sem := s.sem - 1 } := by
  rw [refillWake, hpending]

/-- A wake with a request that the card is not ready for (R546, R550). -/
theorem refillWake_notReady (hpending : s.pending = some h) (hcard : s.card.ready = false) :
    refillWake s = refillError .errNotReady (signalTaken s) := by
  simp only [refillWake, hpending, hcard, signalTaken, Bool.false_eq_true, if_false]

end

/-- Settles O57: the three wakes; the one that starts a fill is the step of its first frame byte. -/
theorem refillWakeTakesTheSignal : Obligations.RefillWakeTakesTheSignal := by
  intro s hprod hsem hready hspi
  have hwakes := execRefill_wakes hprod hsem hready hspi
  refine ⟨fun hpending => ?_, fun h hpending hcard => ?_, fun h hpending hcard => ?_⟩
  · rw [hwakes, refillWake_spurious hpending]
  · rw [execRefill_starts hprod hsem hpending hready hspi (Card.ready_eq_true.2 hcard), Reader.step_frameByte,
      frameByte_readBlockFrame_zero, refillBlock_eq, List.append_assoc]
    rfl
  · rw [hwakes, refillWake_notReady hpending (Card.ready_eq_false.2 hcard)]
    rfl

/-! ### Quiescence -/

section
variable {s : State}

/-- Without a signal the waiting producer does not wake (R546). -/
theorem execRefill_unsignalled (hprod : s.prod = .waiting) (hsem : s.sem = 0) : exec .refill s = .refused .noStep := by
  simp [exec, execRefill, hprod, hsem]

/-- In a quiescent state without a command no agent but the host has a step (R556). -/
theorem agentStep_of_quiescent (h : Quiescent s) (hc : s.cur = none) (hturn : ∀ a, s.turn ≠ .host a) :
    agentStep s = .refused .noStep := by
  obtain ⟨hpl, -, hprod, hsem, hin, -⟩ := h
  unfold agentStep
  cases hs : s.turn with
  | host a => exact absurd hs (hturn a)
  | cmd => simp only [commandAgent, hc]
  | prod =>
    simp only [producerAgent, hprod, Producer.current]
    exact execRefill_unsignalled hprod hsem
  | cons => exact execTick_of_no_tick hin (by simp [hpl])
  | tickSrc => simp [tickSourceAgent, hpl]

theorem enabled_of_quiescent (h : Quiescent s) (hc : s.cur = none) {a : Turn} (ha : ∀ b, a ≠ .host b) :
    enabled a s = false :=
  enabled_of_refused (agentStep_of_quiescent (s := s.withTurn a) h hc ha)

/-- Only a write to `CMD` issues a command (R206, R400). -/
theorem hostStep_of_no_command {a : HostAccess} (ha : ∀ w, a ≠ .write 0x000 4 w) :
    (hostStep a s).busy = s.busy ∧ (hostStep a s).cur = s.cur := by
  unfold hostStep
  split_ifs with hfault hwf
  · exact ⟨rfl, rfl⟩
  · cases a with
    | read off size => exact ⟨rfl, rfl⟩
    | write off size w =>
      obtain ⟨rfl : size = 4, -, -⟩ := HostAccess.wf_iff.1 hwf
      have hoff : off ≠ 0x000 := fun hoff => ha w (by rw [hoff])
      simp only [takenAccess, writeRegister, if_neg hoff]
      split_ifs <;> exact ⟨rfl, rfl⟩
  · exact ⟨rfl, rfl⟩

theorem quiescent_hostStep (h : Quiescent s) {a : HostAccess} (ha : ∀ w, a ≠ .write 0x000 4 w) :
    Quiescent (hostStep a s) := by
  obtain ⟨hbusy, -⟩ := hostStep_of_no_command (s := s) ha
  rw [hostStep_frame, hbusy]
  exact h

end

/-- Settles O8: every agent but the host is refused, and an access that is no command issues none. -/
theorem quiescentStateWaitsForTheHost : Obligations.QuiescentStateWaitsForTheHost := by
  refine ⟨⟨rfl, rfl, rfl, rfl, rfl, rfl⟩, rfl, fun s h hc => ?_, fun s h hc hturn => ?_,
    fun s t a h hc hturn ha hstep => ?_⟩
  · have hnone : ∀ a, (∀ b, a ≠ .host b) → enabled a s = false := fun _ => enabled_of_quiescent h hc
    exact ⟨hnone _ nofun, hnone _ nofun, hnone _ nofun, hnone _ nofun⟩
  · rw [step, agentStep_of_quiescent h hc hturn]
    rfl
  · rw [step_of_turn_host hturn] at hstep
    cases hstep
    obtain ⟨-, hcur⟩ := hostStep_of_no_command (s := s) ha
    exact ⟨quiescent_hostStep h ha, hcur.trans hc⟩

end Sys2Proof.Machine
end

section
/-! The state after reset (R700): the register space reads 0 but for `DIV`, and the invariant holds for the parameters of
any block that R8 admits. -/

namespace Sys2Proof

/-- A raw divisor is brought into the range 1..65535 (R8). -/
theorem Config.asDivisor_ne_zero (d : Short) : Config.asDivisor d ≠ 0 := by
  unfold Config.asDivisor
  split_ifs with h
  exacts [by decide, h]

/-- The constraints of R8, one by one. -/
theorem Params.wf_iff {p : Params} :
    p.wf = true ↔
      1 ≤ p.r1PollLimit ∧ 1 ≤ p.opcondRetryLimit ∧ 1 ≤ p.tokenPollLimit ∧ p.supportedDivisors ≠ [] ∧
        (∀ d ∈ p.supportedDivisors, d ≠ 0) ∧ p.slowDivisor ≠ 0 ∧ p.fastDivisor ≠ 0 ∧
        1 ≤ p.totalBlocks ∧ p.totalBlocks ≤ 2 ^ 32 ∧ 1 ≤ p.samplePeriod := by
  simp [Params.wf, and_assoc]

/-- The parameters at reset are admissible, whatever the raw values are (R8). -/
theorem Config.params_wf : Config.params.wf = true := by
  have hset : ∀ d ∈ Config.params.supportedDivisors, d ≠ 0 := by
    intro d hd
    obtain ⟨r, -, rfl⟩ := List.mem_map.1 (show d ∈ (rawFirstDivisor :: rawOtherDivisors).map asDivisor from hd)
    exact asDivisor_ne_zero r
  exact Params.wf_iff.2 ⟨Nat.succ_pos _, Nat.succ_pos _, Nat.succ_pos _, List.cons_ne_nil _ _, hset,
    asDivisor_ne_zero _, asDivisor_ne_zero _, Nat.succ_pos _, rawTotalBlocks.isLt, Nat.succ_pos _⟩

end Sys2Proof

namespace Sys2Proof.Machine

open Sys2Proof.Safety

/-- An empty memory reads as its reset contents, word by word (R120, R121, R700). -/
theorem readWordLE_nil (a : Nat) : readWordLE [] a = 0 := by
  simp [readWordLE, readByte, unlisted]

section
variable {p : Params}

theorem statusWord_resetOf : statusWord (State.resetOf p) = 0 := by
  simp only [statusWord, State.resetOf]
  decide

/-- Every register of the map but `DIV` reads 0 after reset (R210, R700). -/
theorem readRegister_resetOf {off : Nat} (h : off ≠ 0x014) : readRegister (State.resetOf p) off = 0 := by
  unfold readRegister
  rw [if_neg h]
  split_ifs
  exacts [rfl, rfl, rfl, statusWord_resetOf, rfl, rfl, rfl, rfl, readWordLE_nil _, readWordLE_nil _, rfl]

/-- With admissible parameters the reset state meets the invariant. -/
theorem inv_resetOf (h : p.wf = true) : Inv (State.resetOf p) where
  params := h
  ringForm := ⟨rfl, rfl⟩
  scratchForm := ⟨rfl, rfl⟩
  busy := rfl
  div := nearestOf_mem p.slowDivisor (divisors_ne_nil h)
  playIndex := by simp [State.resetOf, ringSize]
  cursor := totalBlocks_pos h
  pendingSignalled := fun hpending => absurd rfl hpending
  pendingSide := nofun
  cardReady := by simp [State.resetOf]
  latch := nofun
  handler := nofun
  i2cFree := nofun
  command := nofun
  rerr := fun _ => rfl
  underrunShown := nofun
  sigOverrunShown := nofun
  tickLostShown := nofun

end

/-- Settles O7: the elements by the definition of the reset state, the registers by the map. -/
theorem resetLeavesTheTableOfValues : Obligations.ResetLeavesTheTableOfValues :=
  ⟨rfl, rfl, rfl, rfl, rfl, rfl, rfl, rfl, rfl, rfl, rfl, rfl, rfl, rfl, rfl, rfl, rfl, rfl, rfl, rfl, rfl, rfl, rfl, rfl,
    rfl, fun _ => rfl, fun _ => rfl, rfl, rfl, statusWord_resetOf, fun _ => readRegister_resetOf, rfl⟩

/-- Settles O9: the parameters at reset are admissible. -/
theorem invariantHoldsAtReset : Obligations.InvariantHoldsAtReset :=
  inv_resetOf Config.params_wf

end Sys2Proof.Machine
end
